-- ==== Sys2Proof/Word.lean ====
section
/-! DEFINITION. The widths of HUFFCORE's values (00_scope.md R10, R12, R13).

Every value of the block that software sees as bits is an unsigned bit vector, bit 0 the least
significant.  Counts, sums and list positions inside a command are plain `Nat` and are narrowed where
they are stored. -/

namespace Sys2Proof

/-- A register or a command word: 32 bits (R10, R32). -/
abbrev Word := BitVec 32

/-- A symbol, a buffer byte or an opcode: 8 bits (R9, R98). -/
abbrev Byte := BitVec 8

/-- A byte offset of the register space, 0x0000..0x7FFF (R92). -/
abbrev RegOffset := BitVec 15

/-- A node index: 9 bits (R56). -/
abbrev NodeIndex := BitVec 9

/-- A node weight: 40 bits (R10, R56). -/
abbrev Weight := BitVec 40

/-- The stored bits of one code: 255 bits (R59). -/
abbrev CodeBits := BitVec 255

/-- A count of payload bits: 64 bits (R51). -/
abbrev BitCount := BitVec 64

end Sys2Proof
end

