-- ==== Sys2Proof/Syntax.lean ====
section
/-! DEFINITION. The nine commands (30_encoding.md R121): the block's instruction set, one constructor for each
row of spec/opcode_table.json.  No command has an operand field (R123), so no constructor has an argument. -/

namespace Sys2Proof

/-- A legal command. -/
inductive Instr where
  /-- NOP, 0x0000_0000 (46_macro.md R276). -/
  | nop
  /-- COUNT, 0x0000_0001 (41_frequency.md R181). -/
  | count
  /-- BUILD, 0x0000_0002 (42_tree_build.md R192). -/
  | build
  /-- DERIVE, 0x0000_0003 (43_codebook.md R213). -/
  | derive
  /-- PACK, 0x0000_0004 (44_pack.md R226). -/
  | pack
  /-- PARSE, 0x0000_0005 (45_unpack.md R246). -/
  | parse
  /-- UNPACK, 0x0000_0006 (45_unpack.md R253). -/
  | unpack
  /-- COMPRESS, 0x0000_0008 (46_macro.md R278). -/
  | compress
  /-- DECOMPRESS, 0x0000_0009 (46_macro.md R280). -/
  | decompress
  deriving DecidableEq, Repr

end Sys2Proof
end

