-- ==== Sys2Proof/WellFormed.lean ====
section
/-! DEFINITION. The checks on what enters the model: a command word, a term of `Instr`, the two capacities. -/

namespace Sys2Proof

/-- RSVD, bits 31..8 of a command word, must be 0 (R120). -/
def CommandWord.reservedClear (w : Word) : Bool := w.extractLsb' 8 24 == 0

/-- OPC, bits 7..0 of a command word, must be one of the nine of R121: 0x07 and 0x0A..0xFF are illegal (R122). -/
def CommandWord.opcodeAssigned (w : Word) : Bool :=
  [0x00#8, 0x01#8, 0x02#8, 0x03#8, 0x04#8, 0x05#8, 0x06#8, 0x08#8, 0x09#8].contains (w.extractLsb' 0 8)

/-- A command word is legal when both checks pass (R120 to R122, R124). -/
def CommandWord.wf (w : Word) : Bool := CommandWord.reservedClear w && CommandWord.opcodeAssigned w

/-- A command carries no operand, register specifier or immediate (R123): every term of `Instr` is well formed. -/
def Instr.wf : Instr → Bool
  | .nop => true
  | .count => true
  | .build => true
  | .derive => true
  | .pack => true
  | .parse => true
  | .unpack => true
  | .compress => true
  | .decompress => true

/-- The capacities a block may have: OBUF_SIZE is at least 260, so that the archive header always fits; 32 bits
bound both from above (R10). -/
def capacitiesWf (_ibufSize obufSize : Word) : Bool := 260#32 ≤ obufSize

end Sys2Proof
end

