-- ==== Sys2Proof/Decode.lean ====
section
/-! DEFINITION. Command words: the opcode map, the decoder and the encoder (30_encoding.md R120 to R124). -/

namespace Sys2Proof

/-- Why a word is no command (R122). -/
inductive IllegalWord where
  /-- RSVD (bits 31..8) is not 0. -/
  | reservedBitsSet
  /-- RSVD is 0 and OPC is 0x07 or 0x0A..0xFF. -/
  | opcodeUnassigned
  deriving DecidableEq, Repr

/-- What the decoder reads from a word: a mnemonic or ILLEGAL (R124). -/
inductive Decoded where
  | legal (i : Instr)
  | illegal (why : IllegalWord)
  deriving DecidableEq, Repr

/-- OPC, bits 7..0 (R120). -/
def opcField (w : Word) : Byte := w.extractLsb' 0 8

/-- RSVD, bits 31..8 (R120). -/
def rsvdField (w : Word) : BitVec 24 := w.extractLsb' 8 24

/-- The decoder: a total function of the whole 32-bit word (R124). -/
def decode (w : Word) : Decoded :=
  if rsvdField w ≠ 0 then .illegal .reservedBitsSet
  else match (opcField w).toNat with
    | 0x00 => .legal .nop
    | 0x01 => .legal .count
    | 0x02 => .legal .build
    | 0x03 => .legal .derive
    | 0x04 => .legal .pack
    | 0x05 => .legal .parse
    | 0x06 => .legal .unpack
    | 0x08 => .legal .compress
    | 0x09 => .legal .decompress
    | _ => .illegal .opcodeUnassigned

/-- The instruction a legal word stands for. -/
def Decoded.instr? : Decoded → Option Instr
  | .legal i => some i
  | .illegal _ => none

/-- The opcode of each command (R121): the value of OPC, and of ERRCODE.OP when the command raises (R166). -/
def Instr.opcode : Instr → Byte
  | .nop => 0x00
  | .count => 0x01
  | .build => 0x02
  | .derive => 0x03
  | .pack => 0x04
  | .parse => 0x05
  | .unpack => 0x06
  | .compress => 0x08
  | .decompress => 0x09

/-- The word of a command: RSVD = 0 above OPC (R120, R121). -/
def encode (i : Instr) : Word := (0 : BitVec 24) ++ i.opcode

/-- The decoder on a row of spec/opcode_table.json: a command is one 32-bit word, so the `nbits` low bits of `w`
are the word and the bits above them are 0. -/
def decodeTableWord (nbits w : Nat) : Option Instr := (decode (BitVec.ofNat 32 (w % 2 ^ nbits))).instr?

end Sys2Proof
end

