-- ==== Sys2Proof/Config.lean ====
section
/-! DEFINITION. What one HUFFCORE block is configured with, and the values the spec leaves open.

The two buffer capacities are OPEN parameters (R10, U17, U18).  They stand in `State` as the read-only
registers IBUF_SIZE and OBUF_SIZE (R52), which no operation writes, so every statement about a state is a
statement for all capacities; only `State.reset` has to name a pair.

The bytes of a buffer that nothing has written since its contents became unspecified are draws
(R340, R341, R346, U5 to U7): two constants with no body, of which nothing can be proved. -/

namespace Sys2Proof

/-- IBUF_SIZE of the block `State.reset` describes: 4096, the value 95_test_vectors.md section 0 uses.
DESIGN CHOICE (log entry 1): R10 leaves it open. -/
def Config.ibufSize : Word := 4096

/-- OBUF_SIZE of the block `State.reset` describes: 4096, the value 95_test_vectors.md section 0 uses.
DESIGN CHOICE (log entry 1): R10 leaves it open. -/
def Config.obufSize : Word := 4096

/-- `Config.freeIbufByte e i` is what IBUF index `i` holds while nothing has written it since IBUF's contents
became unspecified for the `e`-th time (R340, R346; U5, U6: any value, per byte). -/
opaque Config.freeIbufByte : Nat → Nat → Byte

/-- `Config.freeObufByte e i` is what OBUF index `i` holds while nothing has written it since OBUF's contents
became unspecified for the `e`-th time (R340, R341, R342; U5, U7: any value, per byte). -/
opaque Config.freeObufByte : Nat → Nat → Byte

end Sys2Proof
end

