-- ==== Sys2Proof/Machine/State.lean ====
section
/-! DEFINITION. The state of the block (10_state.md), the host's accesses (20_memory.md R90), and the reasons a step
can stop.

`State` is plain data.  It holds every register of R32, FREQ, NODE, CB, IBUF and OBUF, and three things of the
model's own that make one deterministic step out of two agents (R30): the turns still to be taken, the answer of
the last host access, and a count of how often each buffer's contents became unspecified.  The hidden engine state
of R67 lives inside one engine step (R162) and is no field: see log entry 5. -/

namespace Sys2Proof.Machine

/-- The error codes of R300.  The reserved codes 0x07..0xFF are never written (U16), so no constructor stands for one. -/
inductive ErrorKind where
  /-- 0x00: the command completed without error. -/
  | none
  /-- 0x01: the accepted word is no command. -/
  | illegalCmd
  /-- 0x02: TREE_VALID (DERIVE, UNPACK) or CB_VALID (PACK) is 0. -/
  | sequence
  /-- 0x03: IN_LEN > IBUF_SIZE. -/
  | inRange
  /-- 0x04: IN_LEN < 260. -/
  | malformedShort
  /-- 0x05: the result does not fit OBUF. -/
  | obufOverflow
  /-- 0x06: the payload ends before EXP_LEN symbols were emitted. -/
  | malformedTrunc
  deriving DecidableEq, Repr

/-- ERRCODE (R46): CODE in bits 7..0 and OP in bits 15..8. -/
structure ErrCode where
  code : ErrorKind
  op : Byte
  deriving DecidableEq, Repr

/-- The seven bits of STATUS (R38 to R45).  Bits 31..7 are reserved and read 0. -/
structure Status where
  busy : Bool
  done : Bool
  err : Bool
  ovr : Bool
  trunc : Bool
  treeValid : Bool
  cbValid : Bool
  deriving DecidableEq, Repr

/-- One record of NODE (R56).  The kind of a node is its index and is not stored. -/
structure Node where
  weight : Weight
  left : NodeIndex
  right : NodeIndex
  deriving DecidableEq, Repr

/-- One record of CB (R59): code bit c_j is `bits[j]` for j < len, and the bits above are 0. -/
structure Code where
  len : Byte
  bits : CodeBits
  deriving DecidableEq, Repr

/-- A buffer's written bytes: (index, byte) pairs, the indices strictly rising.  An index that is not listed has
not been written since the contents became unspecified: it holds no listed byte, and reads as a draw of
`Config.freeIbufByte` or `Config.freeObufByte` (log entry 3). -/
abbrev Memory := List Host.Cell

/-- A host access (R90).  There is no write to OBUF (R90, D26). -/
inductive HostAccess where
  /-- RegRead(off). -/
  | regRead (off : RegOffset)
  /-- RegWrite(off, v). -/
  | regWrite (off : RegOffset) (v : Word)
  /-- IbufRead(i). -/
  | ibufRead (i : Word)
  /-- IbufWrite(i, b). -/
  | ibufWrite (i : Word) (b : Byte)
  /-- ObufRead(i). -/
  | obufRead (i : Word)
  /-- Reset: the power-on reset input. -/
  | powerReset
  deriving DecidableEq, Repr

/-- Who moves next (R30, R360): the host with one access, or the engine. -/
inductive Turn where
  | host (a : HostAccess)
  | engine
  deriving DecidableEq, Repr

/-- What the last host access returned (R90): nothing, a 32-bit value, or an 8-bit value. -/
inductive HostData where
  | nothing
  | word (v : Word)
  | byte (b : Byte)
  deriving DecidableEq, Repr

/-- The state of the block. -/
structure State where
  /-- CTRL.IE (R34).  CTRL.SRST reads 0 and holds nothing (R35). -/
  ie : Bool
  /-- CMD (R37): the last accepted command word. -/
  cmd : Word
  /-- STATUS (R38 to R45). -/
  status : Status
  /-- ERRCODE (R46). -/
  errCode : ErrCode
  /-- ERRINFO (R47). -/
  errInfo : Word
  /-- IN_LEN (R48). -/
  inLen : Word
  /-- EXP_LEN (R49). -/
  expLen : Word
  /-- OUT_LEN (R50). -/
  outLen : Word
  /-- BITCNT (R51), read as BITCNT_LO and BITCNT_HI. -/
  bitCnt : BitCount
  /-- IBUF_SIZE (R10, R52): read-only, written by no operation. -/
  ibufSize : Word
  /-- OBUF_SIZE (R10, R52): read-only, written by no operation. -/
  obufSize : Word
  /-- FREQ[0..255] (R54). -/
  freq : Vector Word 256
  /-- NODE[0..510] (R56). -/
  node : Vector Node 511
  /-- CB[0..255] (R59). -/
  cb : Vector Code 256
  /-- IBUF (R62): the bytes written since its contents became unspecified. -/
  ibuf : Memory
  /-- OBUF (R63): the bytes written since its contents became unspecified. -/
  obuf : Memory
  /-- The model's own: how often IBUF's contents became unspecified before now; it picks the draws of `Config.freeIbufByte`. -/
  ibufEpoch : Nat
  /-- The model's own: how often OBUF's contents became unspecified before now; it picks the draws of `Config.freeObufByte`. -/
  obufEpoch : Nat
  /-- The model's own: the turns still to be taken, in order (R30, R108, R360). -/
  turns : List Turn
  /-- The interface's answer to the last host access (R90). -/
  hostData : HostData
  deriving DecidableEq, Repr

/-- No behaviour of the block stops it: no host access and no command faults (R304), every error a command can meet is
a recorded completion (R166), and 93_implementation_defined.md treats nothing as stuck.  So there is no reason to name. -/
inductive Fault where
  deriving DecidableEq, Repr

/-- The reasons a step is refused. -/
inductive Refusal where
  /-- Raised only by an arm of `exec` whose command has no meaning yet, with the command's mnemonic: safe.  No arm raises it. -/
  | notModelled (mnemonic : String)
  deriving DecidableEq, Repr

/-- The state right after power-on reset (R68, R340).  NODE and CB are unspecified there and unobservable; they are 0
here (log entry 2).  The capacities are the ones of `Config` (log entry 1). -/
def State.reset : State where
  ie := false
  cmd := 0
  status := ⟨false, false, false, false, false, false, false⟩
  errCode := ⟨.none, 0⟩
  errInfo := 0
  inLen := 0
  expLen := 0
  outLen := 0
  bitCnt := 0
  ibufSize := Config.ibufSize
  obufSize := Config.obufSize
  freq := Vector.replicate 256 0
  node := Vector.replicate 511 ⟨0, 0, 0⟩
  cb := Vector.replicate 256 ⟨0, 0⟩
  ibuf := []
  obuf := []
  ibufEpoch := 0
  obufEpoch := 0
  turns := []
  hostData := .nothing

end Sys2Proof.Machine
end

