-- ==== Sys2Proof/Machine/Flags.lean ====
section
/-! DEFINITION. STATUS, CTRL, ERRCODE and the interrupt as bits (10_state.md R34 to R46, 60_exceptions.md R300, R310),
and every flag update a command or the host makes. -/

namespace Sys2Proof.Machine

/-- The value of ERRCODE.CODE (R300). -/
def ErrorKind.number : ErrorKind → Byte
  | .none => 0x00
  | .illegalCmd => 0x01
  | .sequence => 0x02
  | .inRange => 0x03
  | .malformedShort => 0x04
  | .obufOverflow => 0x05
  | .malformedTrunc => 0x06

/-- ERRCODE as a word: OP in bits 15..8, CODE in bits 7..0, the rest 0 (R46). -/
def ErrCode.word (e : ErrCode) : Word := (0 : BitVec 16) ++ e.op ++ e.code.number

/-- STATUS as a word (R38): bit 0 BUSY, 1 DONE, 2 ERR, 3 OVR, 4 TRUNC, 5 TREE_VALID, 6 CB_VALID, 31..7 read 0. -/
def Status.word (t : Status) : Word :=
  (0 : BitVec 25) ++ BitVec.ofBool t.cbValid ++ BitVec.ofBool t.treeValid ++ BitVec.ofBool t.trunc
    ++ BitVec.ofBool t.ovr ++ BitVec.ofBool t.err ++ BitVec.ofBool t.done ++ BitVec.ofBool t.busy

/-- CTRL as a word (R34 to R36): bit 0 IE, every other bit reads 0. -/
def ctrlWord (ie : Bool) : Word := (0 : BitVec 31) ++ BitVec.ofBool ie

/-- A host write to STATUS clears the W1C bits (1 to 4) written with 1 and sets nothing (R38). -/
def Status.clearWritten (t : Status) (v : Word) : Status :=
  { t with
    done := t.done && !v.getLsbD 1
    err := t.err && !v.getLsbD 2
    ovr := t.ovr && !v.getLsbD 3
    trunc := t.trunc && !v.getLsbD 4 }

/-- OVR <- 1: a write to a locked location was dropped (R42, R163). -/
def Status.markOverrun (t : Status) : Status := { t with ovr := true }

/-- Every change of FREQ clears TREE_VALID and CB_VALID (R44, R45). -/
def Status.freqChanged (t : Status) : Status := { t with treeValid := false, cbValid := false }

/-- BUILD: TREE_VALID <- 1, CB_VALID <- 0 (R195). -/
def Status.treeBuilt (t : Status) : Status := { t with treeValid := true, cbValid := false }

/-- DERIVE: CB_VALID <- 1 (R214). -/
def Status.bookDerived (t : Status) : Status := { t with cbValid := true }

/-- Some count does not fit its header byte (R229). -/
def losesCount (freq : Vector Word 256) : Bool := freq.toList.any fun f => decide (255 < f.toNat)

/-- PACK sets TRUNC when the header it writes loses information; it never clears it (R229, R302). -/
def Status.headerWritten (t : Status) (freq : Vector Word 256) : Status :=
  { t with trunc := t.trunc || losesCount freq }

/-- Acceptance of a command: DONE and ERR <- 0, BUSY <- 1; OVR, TRUNC and the valid flags stay (R161). -/
def Status.accepted (t : Status) : Status := { t with busy := true, done := false, err := false }

/-- Completion without error: BUSY <- 0, DONE <- 1 (R165). -/
def Status.completed (t : Status) : Status := { t with busy := false, done := true }

/-- Error exit: BUSY <- 0, DONE <- 1, ERR <- 1 (R166). -/
def Status.failed (t : Status) : Status := { t with busy := false, done := true, err := true }

/-- The interrupt output, a level: CTRL.IE AND STATUS.DONE (R310, R311). -/
def State.irq (s : State) : Bool := s.ie && s.status.done

end Sys2Proof.Machine
end

