-- ==== Sys2Proof/Machine/Ops.lean ====
section
/-! DEFINITION. The shared operations: buffer storage, acceptance of a command word, the two ways a command ends
(completion, and the error exit, which is all the exception entry this block has: R306), and the two resets. -/

namespace Sys2Proof.Machine

/-! ## Buffer storage -/

/-- The byte listed at an index, if any. -/
def Memory.lookup : Memory → Nat → Option Byte
  | [], _ => none
  | (a, b) :: m, i => if a = i then some b else Memory.lookup m i

/-- One byte written; the list stays strictly rising. -/
def Memory.write : Memory → Nat → Byte → Memory
  | [], i, b => [(i, b)]
  | (a, c) :: m, i, b =>
    if i < a then (i, b) :: (a, c) :: m
    else if i = a then (i, b) :: m
    else (a, c) :: Memory.write m i b

/-- Bytes written at rising indices from `i` on. -/
def Memory.writeFrom : Memory → Nat → List Byte → Memory
  | m, _, [] => m
  | m, i, b :: bs => Memory.writeFrom (m.write i b) (i + 1) bs

/-- The canonical form of a buffer of `size` bytes: indices strictly rising, and all below `size`.  An unlisted index
holds no listed byte, so no entry can equal what an unlisted index holds. -/
abbrev Memory.wf (size : Nat) (m : Memory) : Prop :=
  List.Pairwise (fun x y : Host.Cell => x.1 < y.1) m ∧ ∀ c ∈ m, c.1 < size

/-- `MemRead(IBUF:i, 1)` (R15, R98): the byte written there, or a draw if none was (R346). -/
def State.ibufAt (s : State) (i : Nat) : Byte := (s.ibuf.lookup i).getD (Config.freeIbufByte s.ibufEpoch i)

/-- What OBUF holds at an index: the byte written there, or a draw if none was (R63, R340, R341). -/
def State.obufAt (s : State) (i : Nat) : Byte := (s.obuf.lookup i).getD (Config.freeObufByte s.obufEpoch i)

/-! ## Acceptance -/

/-- The four commands that produce an output and clear OUT_LEN and BITCNT when accepted (R50, R51, R161). -/
def Instr.isOutput : Instr → Bool
  | .pack | .unpack | .compress | .decompress => true
  | .nop | .count | .build | .derive | .parse => false

/-- Whether acceptance of this word clears OUT_LEN and BITCNT; an illegal word does not (R161). -/
def clearsResult (w : Word) : Bool :=
  match decode w with
  | .legal i => Instr.isOutput i
  | .illegal _ => false

/-- Acceptance of the word w (R161), whatever w is. -/
def accept (w : Word) (s : State) : State :=
  { s with
    cmd := w
    status := s.status.accepted
    errCode := ⟨.none, 0⟩
    errInfo := 0
    outLen := if clearsResult w then 0 else s.outLen
    bitCnt := if clearsResult w then 0 else s.bitCnt }

/-! ## How a command ends -/

/-- What a command's pseudocode came to: its last statement, or a `raise E(info)` by the command or macro step with
opcode `op` (R166, R277).  In both the state holds the writes made so far. -/
inductive Run where
  | finished (s : State)
  | raised (op : Byte) (e : ErrorKind) (info : Word) (s : State)
  deriving DecidableEq, Repr

/-- The next macro step runs only when the one before it finished (R277). -/
def Run.andThen (r : Run) (step : State → Run) : Run :=
  match r with
  | .finished s => step s
  | .raised op e info s => .raised op e info s

/-- Completion without error (R165). -/
def complete (s : State) : State := { s with status := s.status.completed }

/-- The error exit (R166): the error record is written and the command ends; nothing else is saved and no control is
transferred (R306).  OUT_LEN and BITCNT keep what acceptance left in them: 0 for an output command, and for any other
word what they held (R161, R166; log entry 13). -/
def raise (op : Byte) (e : ErrorKind) (info : Word) (s : State) : State :=
  { s with errCode := ⟨e, op⟩, errInfo := info, status := s.status.failed }

/-- The end of a command, by R165 or by R166. -/
def Run.conclude : Run → State
  | .finished s => complete s
  | .raised op e info s => raise op e info s

/-- An accepted word that is no command: `raise ILLEGAL_CMD(0)` with OP = w[7:0], and no other effect (R167). -/
def raiseIllegal (s : State) : State := raise (opcField s.cmd) .illegalCmd 0 s

/-! ## Reset -/

/-- Power-on reset (R340, R341): every register and FREQ take their reset value, a running command is discarded, and
the contents of both buffers become unspecified, that is, new draws.  The capacities are constants. -/
def powerReset (s : State) : State :=
  { State.reset with
    ibufSize := s.ibufSize
    obufSize := s.obufSize
    ibufEpoch := s.ibufEpoch + 1
    obufEpoch := s.obufEpoch + 1
    turns := s.turns }

/-- Soft reset (R342): as power-on, but IBUF is kept, and OBUF is kept when the engine was idle; when a command was
discarded OBUF becomes unspecified (R341). -/
def softReset (s : State) : State :=
  { powerReset s with
    ibuf := s.ibuf
    ibufEpoch := s.ibufEpoch
    obuf := if s.status.busy then [] else s.obuf
    obufEpoch := if s.status.busy then s.obufEpoch + 1 else s.obufEpoch }

end Sys2Proof.Machine
end

