-- ==== Sys2Proof/Machine/Operands.lean ====
section
/-! DEFINITION. The operands of the commands: IN_LEN and IBUF, the arrays indexed by symbol or node, codes as bit
strings, and the archive header's fields (00_scope.md R9, R13 to R16, 30_encoding.md R130 to R137). -/

namespace Sys2Proof.Machine

/-- HDR_LEN (R9). -/
def hdrLen : Nat := 260

/-- ROOT: the root's node index (R9, R193). -/
def root : NodeIndex := 510

/-- NLEAF: nodes below this index are leaves (R9, R56). -/
def leafCount : Nat := 256

/-! ## Arrays indexed by a symbol or a node -/

/-- The array whose entry k is `f k`. -/
def tabulate {α : Type} {n : Nat} (f : Fin n → α) : Vector α n := ⟨(List.ofFn f).toArray, by simp⟩

/-- The entry of a symbol. -/
def atSymbol {α : Type} (v : Vector α 256) (s : Byte) : α := v[s.toNat]'s.isLt

/-- The array with one symbol's entry replaced. -/
def setSymbol {α : Type} (v : Vector α 256) (s : Byte) (x : α) : Vector α 256 := v.set s.toNat x s.isLt

/-- NODE[n].  Index 511, which 9 bits can hold and no node has (R9), gives a record of zeros. -/
def nodeAt (v : Vector Node 511) (n : NodeIndex) : Node :=
  if h : n.toNat < 511 then v[n.toNat] else ⟨0, 0, 0⟩

/-! ## Codes -/

/-- A code or path as the bit string c_0 c_1 ... (R16), read as a number with c_0 lowest. -/
def pathNumber : List Bool → Nat
  | [] => 0
  | b :: p => b.toNat + 2 * pathNumber p

/-- The CB record of a path (R59, R213): len is its length, `code[j]` its bit j, 0 above. -/
def Code.ofPath (p : List Bool) : Code := ⟨BitVec.ofNat 8 p.length, BitVec.ofNat 255 (pathNumber p)⟩

/-- The bit string of a CB record: c_0 .. c_(len-1). -/
def Code.path (c : Code) : List Bool := (List.range c.len.toNat).map fun j => c.bits.getLsbD j

/-- NODE[n].left on bit 0, NODE[n].right on bit 1 (R211, R255). -/
def Node.child (x : Node) (bit : Bool) : NodeIndex := if bit then x.right else x.left

/-! ## The input -/

/-- IBUF[a..a+n-1], in ascending order (R110). -/
def State.ibufBytes (s : State) (a n : Nat) : List Byte := (List.range n).map fun k => s.ibufAt (a + k)

/-- IBUF[0..IN_LEN-1] (R48). -/
def State.input (s : State) : List Byte := s.ibufBytes 0 s.inLen.toNat

/-- The bits of a byte, least significant first (R101, R254). -/
def Byte.bits (b : Byte) : List Bool := (List.range 8).map fun j => b.getLsbD j

/-- The payload bits of the archive in IBUF: every bit of IBUF[260..IN_LEN-1] in scan order (R252, R254). -/
def State.payload (s : State) : List Bool := (s.ibufBytes hdrLen (s.inLen.toNat - hdrLen)).flatMap Byte.bits

/-! ## The archive header -/

/-- Byte k of a word: bits 8k+7..8k (R131). -/
def wordByte (w : Word) (k : Nat) : Byte := w.extractLsb' (8 * k) 8

/-- The length field of an archive in IBUF, little-endian (R100, R131). -/
def State.headerLength (s : State) : Word :=
  s.ibufAt 3 ++ s.ibufAt 2 ++ s.ibufAt 1 ++ s.ibufAt 0

/-- The frequencies of an archive in IBUF (R132): FREQ[s] = zext_32(A[4+s]). -/
def State.headerFreq (s : State) : Vector Word 256 := tabulate fun k => (s.ibufAt (4 + k.val)).setWidth 32

/-- The 260 header bytes of an archive of `len` data bytes (R131, R132, R227, R228): the length little-endian, then each
frequency's low 8 bits in ascending symbol order. -/
def headerBytes (len : Word) (freq : Vector Word 256) : List Byte :=
  (List.range 4).map (wordByte len) ++ freq.toList.map fun f => f.setWidth 8

end Sys2Proof.Machine
end

