-- ==== Sys2Proof/Machine/CodeBook.lean ====
section
/-! DEFINITION. The prefix-code tree walker: DERIVE (43_codebook.md). -/

namespace Sys2Proof.Machine

/-- The walk of R213 with its stack of (node, path), the top first.  `fuel` bounds the pops.  A tree of 511 nodes is
walked in 511 pops (R362); from a NODE that holds no tree, which no run reaches with TREE_VALID = 1, the walk stops
when they are used up (log entry 6). -/
def walk (tree : Vector Node 511) : (fuel : Nat) → List (NodeIndex × List Bool) → Vector Code 256 → Vector Code 256
  | 0, _, cb => cb
  | _ + 1, [], cb => cb
  | fuel + 1, (n, p) :: stack, cb =>
    if h : n.toNat < 256 then walk tree fuel stack (cb.set n.toNat (Code.ofPath p) h)
    else
      walk tree fuel
        (((nodeAt tree n).child false, p ++ [false]) :: ((nodeAt tree n).child true, p ++ [true]) :: stack) cb

/-- CB after the walk from the root with the empty path (R213). -/
def deriveBook (tree : Vector Node 511) (old : Vector Code 256) : Vector Code 256 := walk tree 511 [(root, [])] old

/-- DERIVE's pseudocode (R213): SEQUENCE, or CB <- the paths and CB_VALID <- 1 (R214). -/
def deriveRun (s : State) : Run :=
  if s.status.treeValid then
    .finished { s with cb := deriveBook s.node s.cb, status := s.status.bookDerived }
  else .raised (Instr.opcode .derive) .sequence 0 s

/-- DERIVE (R213). -/
def execDerive (s : State) : Host.Outcome State Fault Refusal := .next (deriveRun s).conclude

end Sys2Proof.Machine
end

