-- ==== Sys2Proof/Machine/Frequency.lean ====
section
/-! DEFINITION. The frequency counter: COUNT (41_frequency.md). -/

namespace Sys2Proof.Machine

/-- One more occurrence of a symbol: exact, since no counter exceeds IN_LEN (R181, R182). -/
def countSymbol (f : Vector Word 256) (s : Byte) : Vector Word 256 := setSymbol f s (atSymbol f s + 1)

/-- The counts of a byte sequence, from 256 zeros (R181). -/
def countSymbols (data : List Byte) : Vector Word 256 := data.foldl countSymbol (Vector.replicate 256 0)

/-- COUNT's pseudocode (R181): IN_RANGE, or FREQ <- the counts and both valid flags cleared (R183). -/
def countRun (s : State) : Run :=
  if s.ibufSize < s.inLen then .raised (Instr.opcode .count) .inRange 0 s
  else .finished { s with freq := countSymbols s.input, status := s.status.freqChanged }

/-- COUNT (R181). -/
def execCount (s : State) : Host.Outcome State Fault Refusal := .next (countRun s).conclude

end Sys2Proof.Machine
end

