-- ==== Sys2Proof/Machine/Packer.lean ====
section
/-! DEFINITION. The variable-length bitstream packer: PACK (44_pack.md). -/

namespace Sys2Proof.Machine

/-- PACK's hidden state (R67, R226): the bit position p, the byte being filled, and OBUF. -/
structure Packing where
  pos : Nat
  acc : Byte
  obuf : Memory
  deriving DecidableEq, Repr

/-- One code bit placed at bit (p mod 8); a byte that is full is written to OBUF[260 + p/8 - 1] (R226, R230). -/
def Packing.put (t : Packing) (bit : Bool) : Packing :=
  let acc := t.acc ||| ((BitVec.ofBool bit).setWidth 8 <<< (t.pos % 8))
  if (t.pos + 1) % 8 = 0 then ⟨t.pos + 1, 0, t.obuf.write (hdrLen + (t.pos + 1) / 8 - 1) acc⟩
  else ⟨t.pos + 1, acc, t.obuf⟩

/-- What packing the bits came to: all placed, or a byte begun at an index that OBUF does not have, by a bit of the code
of input byte `i` (R232). -/
inductive Packed where
  | all (t : Packing)
  | overflow (i : Nat) (t : Packing)
  deriving DecidableEq, Repr

/-- The loop of R226 over the code bits, each with the index of its input byte. -/
def packBits (obufSize : Nat) : List (Nat × Bool) → Packing → Packed
  | [], t => .all t
  | (i, bit) :: rest, t =>
    if t.pos % 8 = 0 ∧ obufSize ≤ hdrLen + t.pos / 8 then .overflow i t
    else packBits obufSize rest (t.put bit)

/-- The code bits of the data in input order, each code c_0 first (R230), with the index of the byte each belongs to. -/
def codeBits (cb : Vector Code 256) (data : List Byte) : List (Nat × Bool) :=
  data.zipIdx.flatMap fun p => (atSymbol cb p.1).path.map fun bit => (p.2, bit)

/-- The final byte, if the last one is only partly filled: its high bits are 0 (R226, R231). -/
def Packing.flush (t : Packing) : Memory :=
  if t.pos % 8 = 0 then t.obuf else t.obuf.write (hdrLen + t.pos / 8) t.acc

/-- The number of payload bytes for B bits: ceil(B/8) (R133, R231). -/
def payloadBytes (bits : Nat) : Nat := (bits + 7) / 8

/-- PACK's payload and result (R226), from the state in which the header is written. -/
def packPayload (s : State) : Run :=
  match packBits s.obufSize.toNat (codeBits s.cb s.input) ⟨0, 0, s.obuf⟩ with
  | .overflow i t => .raised (Instr.opcode .pack) .obufOverflow (BitVec.ofNat 32 i) { s with obuf := t.obuf }
  | .all t =>
    .finished
      { s with
        obuf := t.flush
        outLen := BitVec.ofNat 32 (hdrLen + payloadBytes t.pos)
        bitCnt := BitVec.ofNat 64 t.pos }

/-- PACK's header (R227, R228) and TRUNC (R229). -/
def packHeader (s : State) : State :=
  { s with
    obuf := s.obuf.writeFrom 0 (headerBytes s.inLen s.freq)
    status := s.status.headerWritten s.freq }

/-- PACK's pseudocode (R226): SEQUENCE, then IN_RANGE, then the header and the payload. -/
def packRun (s : State) : Run :=
  if !s.status.cbValid then .raised (Instr.opcode .pack) .sequence 0 s
  else if s.ibufSize < s.inLen then .raised (Instr.opcode .pack) .inRange 0 s
  else packPayload (packHeader s)

/-- PACK (R226). -/
def execPack (s : State) : Host.Outcome State Fault Refusal := .next (packRun s).conclude

end Sys2Proof.Machine
end

