-- ==== Sys2Proof/Machine/TreeBuild.lean ====
section
/-! DEFINITION. The Huffman tree builder: BUILD (42_tree_build.md). -/

namespace Sys2Proof.Machine

/-- A member of the working set with its key (NODE[n].weight, n) (R191).  The weight is exact. -/
structure Key where
  weight : Nat
  index : Nat
  deriving DecidableEq, Repr

/-- Lexicographic order: weight first, then node index (R191). -/
def Key.less (a b : Key) : Bool :=
  Nat.blt a.weight b.weight || (Nat.beq a.weight b.weight && Nat.blt a.index b.index)

/-- W with one more node.  W is kept in ascending key order, so that the argmin of R192 is its first node. -/
def insertNode (k : Key) : List Key → List Key
  | [] => [k]
  | x :: w => match x.less k with
    | true => x :: insertNode k w
    | false => k :: x :: w

/-- What a merge writes: the parent's weight, and its children in the order they were extracted (R192, R194). -/
structure Merge where
  weight : Nat
  left : Nat
  right : Nat
  deriving DecidableEq, Repr

/-- `todo` merges from the working set on, the first of which makes node `next` (R192): a and b are the two nodes of
least key, taken out in that order, and their parent is put in.  A working set of fewer than two nodes, which no merge
meets (R193), ends the list. -/
def merges : (todo next : Nat) → List Key → List Merge
  | todo + 1, next, a :: b :: w =>
    ⟨a.weight + b.weight, a.index, b.index⟩ :: merges todo (next + 1) (insertNode ⟨a.weight + b.weight, next⟩ w)
  | _, _, _ => []

/-- The working set BUILD starts from: the 256 leaves, leaf s with weight FREQ[s] (R190, R192). -/
def leafKeys (freq : Vector Word 256) : List Key :=
  (freq.toList.zipIdx.map fun p => (⟨p.1.toNat, p.2⟩ : Key)).foldr insertNode []

/-- The 255 merges of BUILD, the k-th making node 256+k (R192). -/
def treeMerges (freq : Vector Word 256) : List Merge := merges 255 leafCount (leafKeys freq)

/-- The record of an internal node. -/
def Merge.node (m : Merge) : Node := ⟨BitVec.ofNat 40 m.weight, BitVec.ofNat 9 m.left, BitVec.ofNat 9 m.right⟩

/-- NODE after BUILD: a leaf's weight is its frequency, and its unused children stay (R56, D42: unused, so not
written); internal node 256+k is the k-th merge (R192). -/
def buildTree (freq : Vector Word 256) (old : Vector Node 511) : Vector Node 511 :=
  tabulate fun n =>
    if h : n.val < 256 then { old[n.val] with weight := (freq[n.val]'h).setWidth 40 }
    else match (treeMerges freq)[n.val - 256]? with
      | some m => m.node
      | none => old[n.val]

/-- BUILD's pseudocode (R192): it has no error (R190). -/
def buildRun (s : State) : Run :=
  .finished { s with node := buildTree s.freq s.node, status := s.status.treeBuilt }

/-- BUILD (R192). -/
def execBuild (s : State) : Host.Outcome State Fault Refusal := .next (buildRun s).conclude

end Sys2Proof.Machine
end

