-- ==== Sys2Proof/Machine/Unpacker.lean ====
section
/-! DEFINITION. The header parse and the bitstream unpacker: PARSE and UNPACK (45_unpack.md). -/

namespace Sys2Proof.Machine

/-- PARSE's pseudocode (R246): IN_RANGE, then MALFORMED_SHORT, or EXP_LEN and FREQ from the header and both valid flags
cleared (R249). -/
def parseRun (s : State) : Run :=
  if s.ibufSize < s.inLen then .raised (Instr.opcode .parse) .inRange 0 s
  else if s.inLen.toNat < hdrLen then .raised (Instr.opcode .parse) .malformedShort 0 s
  else .finished { s with expLen := s.headerLength, freq := s.headerFreq, status := s.status.freqChanged }

/-- PARSE (R246). -/
def execParse (s : State) : Host.Outcome State Fault Refusal := .next (parseRun s).conclude

/-- UNPACK's hidden state (R67, R253): the current node, the symbols emitted, the payload bits scanned, the bits up to
the last emitted symbol's leaf, and OBUF. -/
structure Unpacking where
  node : NodeIndex
  emitted : Nat
  pos : Nat
  last : Nat
  obuf : Memory
  deriving DecidableEq, Repr

/-- One payload bit (R253, R255, R256): the walk descends, and at a leaf emits its symbol while fewer than `expLen` are
out, and in every case returns to the root. -/
def Unpacking.scan (tree : Vector Node 511) (expLen : Nat) (t : Unpacking) (bit : Bool) : Unpacking :=
  let n := (nodeAt tree t.node).child bit
  if n.toNat < leafCount then
    if t.emitted < expLen then
      ⟨root, t.emitted + 1, t.pos + 1, t.pos + 1, t.obuf.write t.emitted (n.setWidth 8)⟩
    else ⟨root, t.emitted, t.pos + 1, t.last, t.obuf⟩
  else ⟨n, t.emitted, t.pos + 1, t.last, t.obuf⟩

/-- The whole payload scanned from the root (R252 to R254). -/
def unpackBits (tree : Vector Node 511) (expLen : Nat) (bits : List Bool) (obuf : Memory) : Unpacking :=
  bits.foldl (Unpacking.scan tree expLen) ⟨root, 0, 0, 0, obuf⟩

/-- UNPACK's scan and result (R253): MALFORMED_TRUNC with the symbols emitted kept (R257, R260), or the result (R258). -/
def unpackPayload (s : State) : Run :=
  let t := unpackBits s.node s.expLen.toNat s.payload s.obuf
  if t.emitted < s.expLen.toNat then
    .raised (Instr.opcode .unpack) .malformedTrunc (BitVec.ofNat 32 t.emitted) { s with obuf := t.obuf }
  else .finished { s with obuf := t.obuf, outLen := s.expLen, bitCnt := BitVec.ofNat 64 t.last }

/-- UNPACK's pseudocode (R253): SEQUENCE, IN_RANGE, MALFORMED_SHORT, OBUF_OVERFLOW, then the scan. -/
def unpackRun (s : State) : Run :=
  if !s.status.treeValid then .raised (Instr.opcode .unpack) .sequence 0 s
  else if s.ibufSize < s.inLen then .raised (Instr.opcode .unpack) .inRange 0 s
  else if s.inLen.toNat < hdrLen then .raised (Instr.opcode .unpack) .malformedShort 0 s
  else if s.obufSize < s.expLen then .raised (Instr.opcode .unpack) .obufOverflow 0 s
  else unpackPayload s

/-- UNPACK (R253). -/
def execUnpack (s : State) : Host.Outcome State Fault Refusal := .next (unpackRun s).conclude

end Sys2Proof.Machine
end

