-- ==== Sys2Proof/Machine/Macro.lean ====
section
/-! DEFINITION. NOP and the end-to-end commands COMPRESS and DECOMPRESS (46_macro.md). -/

namespace Sys2Proof.Machine

/-- NOP (R276): it has no pseudocode and completes at once. -/
def execNop (s : State) : Host.Outcome State Fault Refusal := .next (complete s)

/-- COMPRESS's steps (R278): COUNT, BUILD, DERIVE, PACK, ended by the first that raises (R277). -/
def compressRun (s : State) : Run := (((countRun s).andThen buildRun).andThen deriveRun).andThen packRun

/-- COMPRESS (R278). -/
def execCompress (s : State) : Host.Outcome State Fault Refusal := .next (compressRun s).conclude

/-- DECOMPRESS's steps (R280): PARSE, BUILD, UNPACK, ended by the first that raises (R277). -/
def decompressRun (s : State) : Run := ((parseRun s).andThen buildRun).andThen unpackRun

/-- DECOMPRESS (R280). -/
def execDecompress (s : State) : Host.Outcome State Fault Refusal := .next (decompressRun s).conclude

end Sys2Proof.Machine
end

