-- ==== Sys2Proof/Machine/RegisterMap.lean ====
section
/-! DEFINITION. The register space: the map of 10_state.md R32, and what RegRead and RegWrite do at each place of it. -/

namespace Sys2Proof.Machine

/-- What a register-space offset names (R32, R53, R93). -/
inductive Place where
  /-- The offset is not a multiple of 4 (R93). -/
  | misaligned
  | id
  | ctrl
  | cmd
  | status
  | errCode
  | errInfo
  | inLen
  | expLen
  | outLen
  | bitCntLo
  | bitCntHi
  | ibufSize
  | obufSize
  /-- FREQ[s]. -/
  | freq (s : Byte)
  /-- Word w of node n's window, n = 0..510. -/
  | nodeWord (n : NodeIndex) (w : BitVec 2)
  /-- Word w of symbol s's window. -/
  | cbWord (s : Byte) (w : BitVec 4)
  /-- An offset R32 does not name (R53). -/
  | reserved
  deriving DecidableEq, Repr

/-- The registers below 0x400. -/
def controlPlace (off : Nat) : Place :=
  match off with
  | 0x000 => .id
  | 0x004 => .ctrl
  | 0x008 => .cmd
  | 0x00C => .status
  | 0x010 => .errCode
  | 0x014 => .errInfo
  | 0x018 => .inLen
  | 0x01C => .expLen
  | 0x020 => .outLen
  | 0x024 => .bitCntLo
  | 0x028 => .bitCntHi
  | 0x02C => .ibufSize
  | 0x030 => .obufSize
  | _ => .reserved

/-- The register map (R32): FREQ[s] at 0x400 + 4*s, node n's window at 0x2000 + 16*n, symbol s's window at
0x4000 + 64*s; every other offset is reserved (R53). -/
def placeOf (off : RegOffset) : Place :=
  let a := off.toNat
  if a % 4 ≠ 0 then .misaligned
  else if a < 0x400 then controlPlace a
  else if a < 0x800 then .freq (BitVec.ofNat 8 ((a - 0x400) / 4))
  else if a < 0x2000 then .reserved
  else if a < 0x3FF0 then .nodeWord (BitVec.ofNat 9 ((a - 0x2000) / 16)) (BitVec.ofNat 2 (a / 4))
  else if a < 0x4000 then .reserved
  else .cbWord (BitVec.ofNat 8 ((a - 0x4000) / 64)) (BitVec.ofNat 4 (a / 4))

/-- ID (R3, R33): the ASCII codes of "HUF1". -/
def idWord : Word := 0x48554631

/-- Word w of node n's window (R136). -/
def nodeWindow (tree : Vector Node 511) (n : NodeIndex) (w : BitVec 2) : Word :=
  let x := nodeAt tree n
  let leaf := decide (n.toNat < leafCount)
  match w.toNat with
  | 0 => if leaf then 0 else (1 : BitVec 1) ++ (0 : BitVec 6) ++ x.right ++ (0 : BitVec 7) ++ x.left
  | 1 => if leaf then n.setWidth 32 else 0
  | 2 => x.weight.extractLsb' 0 32
  | _ => (x.weight.extractLsb' 32 8).setWidth 32

/-- Word w of symbol s's window (R137): w0 the length, w1..w8 the code bits low word first, w9..w15 zero. -/
def cbWindow (cb : Vector Code 256) (s : Byte) (w : BitVec 4) : Word :=
  let c := atSymbol cb s
  if w.toNat = 0 then c.len.setWidth 32
  else if w.toNat ≤ 8 then c.bits.extractLsb' (32 * (w.toNat - 1)) 32
  else 0

/-- A read that is blank, that is 0, while BUSY = 1 (R164). -/
def State.whenIdle (s : State) (v : Word) : Word := if s.status.busy then 0 else v

/-- The value RegRead returns at a place (R33 to R61, R93, R164). -/
def State.readPlace (s : State) : Place → Word
  | .misaligned => 0
  | .id => idWord
  | .ctrl => ctrlWord s.ie
  | .cmd => s.cmd
  | .status => s.status.word
  | .errCode => s.whenIdle s.errCode.word
  | .errInfo => s.whenIdle s.errInfo
  | .inLen => s.inLen
  | .expLen => s.whenIdle s.expLen
  | .outLen => s.whenIdle s.outLen
  | .bitCntLo => s.whenIdle (s.bitCnt.extractLsb' 0 32)
  | .bitCntHi => s.whenIdle (s.bitCnt.extractLsb' 32 32)
  | .ibufSize => s.ibufSize
  | .obufSize => s.obufSize
  | .freq k => s.whenIdle (atSymbol s.freq k)
  | .nodeWord n w => s.whenIdle (if s.status.treeValid then nodeWindow s.node n w else 0)
  | .cbWord k w => s.whenIdle (if s.status.cbValid then cbWindow s.cb k w else 0)
  | .reserved => 0

/-- RegRead(off): the value, with no side effect (R103). -/
def State.regRead (s : State) (off : RegOffset) : Word := s.readPlace (placeOf off)

/-- A write to a location locked while BUSY = 1: dropped then, with OVR <- 1 (R42, R163); done when idle. -/
def State.locked (s : State) (idle : State → State) : State :=
  if s.status.busy then { s with status := s.status.markOverrun } else idle s

/-- A write to CTRL (R34 to R36): bit 1 performs a soft reset, otherwise IE <- bit 0. -/
def State.writeCtrl (s : State) (v : Word) : State :=
  if v.getLsbD 1 then softReset s else { s with ie := v.getLsbD 0 }

/-- A host write to FREQ[k] when idle (R55). -/
def State.writeFreq (s : State) (k : Byte) (v : Word) : State :=
  { s with freq := setSymbol s.freq k v, status := s.status.freqChanged }

/-- What RegWrite of v does at a place: read-only registers, the windows, reserved and misaligned offsets ignore it
and never set OVR (R53, R58, R61, R93, R163). -/
def State.writePlace (s : State) (v : Word) : Place → State
  | .ctrl => s.writeCtrl v
  | .cmd => s.locked (accept v)
  | .status => { s with status := s.status.clearWritten v }
  | .inLen => s.locked fun s => { s with inLen := v }
  | .expLen => s.locked fun s => { s with expLen := v }
  | .freq k => s.locked fun s => s.writeFreq k v
  | .misaligned | .id | .errCode | .errInfo | .outLen | .bitCntLo | .bitCntHi | .ibufSize | .obufSize => s
  | .nodeWord _ _ | .cbWord _ _ | .reserved => s

/-- RegWrite(off, v). -/
def State.regWrite (s : State) (off : RegOffset) (v : Word) : State := s.writePlace v (placeOf off)

end Sys2Proof.Machine
end

