-- ==== Sys2Proof/Machine/HostAccess.lean ====
section
/-! DEFINITION. The host's accesses (20_memory.md R90 to R104). -/

namespace Sys2Proof.Machine

/-- IbufRead(i) (R95): IBUF[i] when idle and in range, else 0. -/
def State.ibufRead (s : State) (i : Word) : Byte :=
  if s.status.busy then 0 else if i < s.ibufSize then s.ibufAt i.toNat else 0

/-- ObufRead(i) (R97): OBUF[i] when idle and in range, else 0. -/
def State.obufRead (s : State) (i : Word) : Byte :=
  if s.status.busy then 0 else if i < s.obufSize then s.obufAt i.toNat else 0

/-- IbufWrite(i, b) (R96): done when idle and in range, ignored when idle and out of range, dropped with OVR when busy. -/
def State.ibufWrite (s : State) (i : Word) (b : Byte) : State :=
  s.locked fun s => if i < s.ibufSize then { s with ibuf := s.ibuf.write i.toNat b } else s

/-- One host access, indivisible (R90, R105): its effect, and what it returns. -/
def hostAccess (a : HostAccess) (s : State) : State :=
  match a with
  | .regRead off => { s with hostData := .word (s.regRead off) }
  | .regWrite off v => { s.regWrite off v with hostData := .nothing }
  | .ibufRead i => { s with hostData := .byte (s.ibufRead i) }
  | .ibufWrite i b => { s.ibufWrite i b with hostData := .nothing }
  | .obufRead i => { s with hostData := .byte (s.obufRead i) }
  | .powerReset => powerReset s

end Sys2Proof.Machine
end

