-- ==== Sys2Proof/Machine/Step.lean ====
section
/-! DEFINITION. One step of the block: the next turn, which is a host access or the engine's (30_encoding.md R124,
40_command_protocol.md R162, R167, R170; 70_reset_and_hazards.md R360).

The turns in `State` are the single order of host accesses and command completions of R108.  Every interleaving is some
list of turns, so the number of accesses that see BUSY = 1 (R360, U9) is left as open as the spec leaves it.  When the
list is used up and a command is running, the engine moves: that is R360's weak fairness. -/

namespace Sys2Proof.Machine

/-- The engine's turn (R162): it executes the accepted command when BUSY = 1, and does nothing when idle (R170). -/
def engineTurn (s : State) : Host.Outcome State Fault Refusal :=
  if s.status.busy then
    match decode s.cmd with
    | .legal i => exec i s
    | .illegal _ => .next (raiseIllegal s)
  else .next s

/-- One step. -/
def step (s : State) : Host.Outcome State Fault Refusal :=
  match s.turns with
  | [] => engineTurn s
  | .engine :: rest => engineTurn { s with turns := rest }
  | .host a :: rest => .next (hostAccess a { s with turns := rest })

/-- The word is accepted (R161) and the engine moves next, so that the next step executes it.  This stands for a host
write to CMD just made; the block fetches nothing (R65; log entry 7). -/
def State.withFetchWord (s : State) (nbits w : Nat) : State :=
  { accept (BitVec.ofNat 32 (w % 2 ^ nbits)) s with turns := .engine :: s.turns }

end Sys2Proof.Machine
end

