-- ==== Sys2Proof/Machine/HostNotation.lean ====
section
/-! DEFINITION. The host program notation of 30_encoding.md R125 and R126, as lists of turns. -/

namespace Sys2Proof.Machine

/-- `WR <reg>, <v>`. -/
def wr (off : RegOffset) (v : Word) : List Turn := [.host (.regWrite off v)]

/-- `RD <reg>`, and `RN NODE[n].w<k>` and `RN CB[s].w<k>` at their window's offset. -/
def rd (off : RegOffset) : List Turn := [.host (.regRead off)]

/-- `WB IBUF[i], <b>`. -/
def wb (i : Word) (b : Byte) : List Turn := [.host (.ibufWrite i b)]

/-- `RB IBUF[i]`. -/
def rbIbuf (i : Word) : List Turn := [.host (.ibufRead i)]

/-- `RB OBUF[i]`. -/
def rbObuf (i : Word) : List Turn := [.host (.obufRead i)]

/-- The offset of FREQ[s] (R32). -/
def freqOffset (s : Byte) : RegOffset := 0x400 + 4 * s.setWidth 15

/-- The offset of word w of node n's window (R32). -/
def nodeOffset (n : NodeIndex) (w : BitVec 2) : RegOffset := 0x2000 + 16 * n.setWidth 15 + 4 * w.setWidth 15

/-- The offset of word w of symbol s's window (R32). -/
def cbOffset (s : Byte) (w : BitVec 4) : RegOffset := 0x4000 + 64 * s.setWidth 15 + 4 * w.setWidth 15

/-- `POLL`: STATUS is read until BUSY reads 0.  `seen` is how many reads see BUSY = 1 before the engine moves. -/
def poll (seen : Nat) : List Turn :=
  List.replicate seen (.host (.regRead 0x00C)) ++ [.engine, .host (.regRead 0x00C)]

/-- `RUN <mnemonic>`: the command's word to CMD, then `POLL`. -/
def run (i : Instr) (seen : Nat) : List Turn := wr 0x008 (encode i) ++ poll seen

/-- `WBS IBUF[a..], <b0>, <b1>, ...`. -/
def wbs : (a : Word) → List Byte → List Turn
  | _, [] => []
  | a, b :: bs => wb a b ++ wbs (a + 1) bs

/-- `CLRST`. -/
def clrst : List Turn := wr 0x00C 0x0000001E

/-- `SRST`. -/
def srst : List Turn := wr 0x004 0x00000002

/-- A program set before the block: the turns still to be taken. -/
def State.withProgram (s : State) (p : List Turn) : State := { s with turns := p }

end Sys2Proof.Machine
end

