-- ==== Sys2Proof/Safety.lean ====
section
/-! DEFINITION. What every reachable state satisfies (`State.Inv`), and what a host program that respects the hazards of
70_reset_and_hazards.md section 3 does. -/

namespace Sys2Proof.Machine

/-- The invariant of the block: it holds after reset and every step keeps it. -/
structure State.Inv (s : State) : Prop where
  /-- OBUF_SIZE is at least 260 (R10). -/
  capacities : capacitiesWf s.ibufSize s.obufSize = true
  /-- IBUF is in canonical form, all indices below IBUF_SIZE (R62). -/
  ibufForm : Memory.wf s.ibufSize.toNat s.ibuf
  /-- OBUF is in canonical form, all indices below OBUF_SIZE (R63, R98). -/
  obufForm : Memory.wf s.obufSize.toNat s.obuf
  /-- CB_VALID = 1 implies TREE_VALID = 1 (R45). -/
  bookNeedsTree : s.status.cbValid = true → s.status.treeValid = true
  /-- While a command runs, DONE, ERR and the error record are clear (R161, R312). -/
  busyClean : s.status.busy = true →
    s.status.done = false ∧ s.status.err = false ∧ s.errCode = ⟨.none, 0⟩ ∧ s.errInfo = 0
  /-- While an output command runs, OUT_LEN and BITCNT are 0 (R161). -/
  busyResult : s.status.busy = true → clearsResult s.cmd = true → s.outLen = 0 ∧ s.bitCnt = 0
  /-- ERR stands only beside an error code (R41). -/
  errRecorded : s.status.err = true → s.errCode.code ≠ .none
  /-- Without an error code, OP and ERRINFO are 0 (R46, R47). -/
  noErrorNoInfo : s.errCode.code = .none → s.errCode.op = 0 ∧ s.errInfo = 0
  /-- OUT_LEN counts bytes that OBUF has (R50). -/
  outFits : s.outLen ≤ s.obufSize
  /-- TREE_VALID = 1: NODE holds the tree built from the current FREQ (R44). -/
  treeCurrent : s.status.treeValid = true → s.node = buildTree s.freq s.node
  /-- CB_VALID = 1: CB holds the code book derived from the current tree (R45). -/
  bookCurrent : s.status.cbValid = true → s.cb = deriveBook s.node s.cb

/-- Every IBUF byte below IN_LEN has been written since IBUF's contents became unspecified, as the host must see to
before a command reads them (R346). -/
def State.inputWritten (s : State) : Prop := ∀ i < s.inLen.toNat, (s.ibuf.lookup i).isSome = true

/-- The places whose writes are locked while BUSY = 1 (R163). -/
def Place.isLocked : Place → Bool
  | .cmd | .inLen | .expLen | .freq _ => true
  | _ => false

/-- The access writes a location that is locked while BUSY = 1, so that it is lost if made then (R163, R347). -/
def HostAccess.isLockedWrite : HostAccess → Bool
  | .regWrite off _ => (placeOf off).isLocked
  | .ibufWrite _ _ => true
  | .regRead _ | .ibufRead _ | .obufRead _ | .powerReset => false

/-- The places whose reads are blank while BUSY = 1 (R164). -/
def Place.isBlank : Place → Bool
  | .errCode | .errInfo | .expLen | .outLen | .bitCntLo | .bitCntHi | .freq _ | .nodeWord _ _ | .cbWord _ _ => true
  | _ => false

/-- The access reads a location that reads 0 while BUSY = 1 (R164, R348). -/
def HostAccess.isBlankRead : HostAccess → Bool
  | .regRead off => (placeOf off).isBlank
  | .ibufRead _ | .obufRead _ => true
  | .regWrite _ _ | .ibufWrite _ _ | .powerReset => false

/-- An access that respects the hazards in this state: no locked write and no blank read while BUSY = 1 (R347, R348), and
no read of OBUF at or above OUT_LEN (R351). -/
def HostAccess.isSafe (a : HostAccess) (s : State) : Bool :=
  !(s.status.busy && (a.isLockedWrite || a.isBlankRead)) &&
    match a with
    | .obufRead i => decide (i < s.outLen)
    | _ => true

end Sys2Proof.Machine
end

