-- ==== Sys2Proof/Certificates/Slice0/Obligations.lean ====
section
/-! DEFINITION. The statements about the model, from the numbered rules of the spec, and the few words they are put in.
The fields `turns` and `hostData` are the model's own: what a statement says of them is the model's choice, no rule of
the spec (log entries 4 and 8). -/

open Sys2Proof Sys2Proof.Machine

/-! ## The words of the statements -/

namespace Sys2Proof.Claims

/-- The engine moves next: it has the next turn, or no turn is left. -/
def engineMoves (s : State) : Prop := s.turns = [] ∨ ∃ rest, s.turns = .engine :: rest

/-- The state with its first turn taken. -/
def turnTaken (s : State) : State := { s with turns := s.turns.tail }

/-- BUSY <- 0, DONE <- 1 (R165). -/
def doneStatus (t : Status) : Status := { t with busy := false, done := true }

/-- The state with the error record of R166 and nothing else changed. -/
def failedWith (s : State) (op : Byte) (e : ErrorKind) (info : Word) : State :=
  { s with
    errCode := ⟨e, op⟩
    errInfo := info
    status := { s.status with busy := false, done := true, err := true } }

/-- The node with index n, as a number. -/
def nodeN (v : Vector Node 511) (n : Nat) : Node := nodeAt v (BitVec.ofNat 9 n)

/-- NODE[n].weight, as a number. -/
def weightN (v : Vector Node 511) (n : Nat) : Nat := (nodeN v n).weight.toNat

/-- NODE[n].left, as a number. -/
def leftN (v : Vector Node 511) (n : Nat) : Nat := (nodeN v n).left.toNat

/-- NODE[n].right, as a number. -/
def rightN (v : Vector Node 511) (n : Nat) : Nat := (nodeN v n).right.toNat

/-- key(m) < key(n) (R191). -/
def keyLess (v : Vector Node 511) (m n : Nat) : Prop :=
  weightN v m < weightN v n ∨ (weightN v m = weightN v n ∧ m < n)

/-- Node c is in the working set when node n is made: it exists, and no earlier merge took it. -/
def unmerged (v : Vector Node 511) (n c : Nat) : Prop :=
  c < n ∧ ∀ m, 256 ≤ m → m < n → leftN v m ≠ c ∧ rightN v m ≠ c

/-- R191, R192 and R194 without a program: leaf weights are the frequencies, and every internal node is made of the two
members of least key of the working set, the lesser one on the left, and weighs exactly their sum. -/
structure IsHuffmanTree (freq : Vector Word 256) (v : Vector Node 511) : Prop where
  leafWeight : ∀ k : Byte, weightN v k.toNat = (atSymbol freq k).toNat
  leftUnmerged : ∀ n, 256 ≤ n → n ≤ 510 → unmerged v n (leftN v n)
  rightUnmerged : ∀ n, 256 ≤ n → n ≤ 510 → unmerged v n (rightN v n)
  ordered : ∀ n, 256 ≤ n → n ≤ 510 → keyLess v (leftN v n) (rightN v n)
  least : ∀ n, 256 ≤ n → n ≤ 510 → ∀ c, unmerged v n c → c ≠ leftN v n → c ≠ rightN v n → keyLess v (rightN v n) c
  sum : ∀ n, 256 ≤ n → n ≤ 510 → weightN v n = weightN v (leftN v n) + weightN v (rightN v n)

/-- The node a path leads to (R217). -/
def descend (v : Vector Node 511) (n : NodeIndex) (p : List Bool) : NodeIndex :=
  p.foldl (fun n b => (nodeAt v n).child b) n

/-- The code bits of the data in IBUF, in input order (R230). -/
def codeString (s : State) : List Bool := s.input.flatMap fun x => (atSymbol s.cb x).path

/-- The archive PACK writes to OBUF from the data, codes and frequencies of s (R227, R228, R230, R231), as t holds it; no
other byte of OBUF changes. -/
structure PackedArchive (s t : State) : Prop where
  length : ∀ k, k < 4 → t.obufAt k = s.inLen.extractLsb' (8 * k) 8
  frequency : ∀ k : Byte, t.obufAt (4 + k.toNat) = (atSymbol s.freq k).extractLsb' 0 8
  payload : ∀ p (h : p < (codeString s).length), (t.obufAt (260 + p / 8)).getLsbD (p % 8) = (codeString s)[p]
  pad : ∀ p, (codeString s).length ≤ p → p / 8 < ((codeString s).length + 7) / 8 →
    (t.obufAt (260 + p / 8)).getLsbD (p % 8) = false
  rest : ∀ a, 260 + ((codeString s).length + 7) / 8 ≤ a → t.obufAt a = s.obufAt a
  outLen : t.outLen.toNat = 260 + ((codeString s).length + 7) / 8
  bitCnt : t.bitCnt.toNat = (codeString s).length

/-- Some FREQ value is above 255 (R229). -/
def truncates (freq : Vector Word 256) : Prop := ∃ k : Byte, 255 < (atSymbol freq k).toNat

/-- The state PACK meets inside COMPRESS (R278). -/
def beforePack (s : State) : State :=
  let freq := countSymbols s.input
  let node := buildTree freq s.node
  { s with
    freq := freq
    node := node
    cb := deriveBook node s.cb
    status := { s.status with treeValid := true, cbValid := true } }

/-- The leaves a bit string reaches from node n, each with the number of bits read when it is reached (R253 to R256). -/
def leaves (v : Vector Node 511) : NodeIndex → Nat → List Bool → List (Byte × Nat)
  | _, _, [] => []
  | n, p, b :: bits =>
    let m := (nodeAt v n).child b
    if m.toNat < 256 then (m.setWidth 8, p + 1) :: leaves v 510 (p + 1) bits else leaves v m (p + 1) bits

/-- The leaves the payload in IBUF reaches from the root. -/
def payloadLeaves (s : State) : List (Byte × Nat) := leaves s.node 510 0 s.payload

/-- OBUF of t holds the first n symbols of the list, and is as in s from there on. -/
def holdsSymbols (s t : State) (n : Nat) (l : List (Byte × Nat)) : Prop :=
  (∀ j, j < n → (l[j]?).map (·.1) = some (t.obufAt j)) ∧ ∀ a, n ≤ a → t.obufAt a = s.obufAt a

/-- The state UNPACK meets inside DECOMPRESS (R280). -/
def beforeUnpack (s : State) : State :=
  { s with
    expLen := s.headerLength
    freq := s.headerFreq
    node := buildTree s.headerFreq s.node
    status := { s.status with treeValid := true, cbValid := false } }

/-- The two states differ in NODE and CB only, and there only where the host and the engine cannot see it: with
TREE_VALID = 1 they agree on the internal nodes and on the weights, with CB_VALID = 1 on CB. -/
structure SameButStale (s s' : State) : Prop where
  rest : s' = { s with node := s'.node, cb := s'.cb }
  tree : s.status.treeValid = true → ∀ n, n ≤ 510 →
    weightN s'.node n = weightN s.node n ∧
      (256 ≤ n → leftN s'.node n = leftN s.node n ∧ rightN s'.node n = rightN s.node n)
  book : s.status.cbValid = true → s'.cb = s.cb

/-- A register-space offset at which RegWrite can have an effect (R32). -/
def writable (off : RegOffset) : Prop :=
  off = 0x004 ∨ off = 0x008 ∨ off = 0x00C ∨ off = 0x018 ∨ off = 0x01C ∨ ∃ k : Byte, off.toNat = 0x400 + 4 * k.toNat

end Sys2Proof.Claims

open Sys2Proof.Claims

/-! ## Command words -/

/-- R121, R124: a word is a command exactly when it is one of the nine words of the opcode map, and it is that command. -/
def Obligations.NineWordsAreTheCommands : Prop :=
  ∀ w : Word, ∀ i : Instr, decode w = .legal i ↔
    (w, i) ∈ [(0x00000000#32, Instr.nop), (0x00000001#32, Instr.count), (0x00000002#32, Instr.build),
      (0x00000003#32, Instr.derive), (0x00000004#32, Instr.pack), (0x00000005#32, Instr.parse),
      (0x00000006#32, Instr.unpack), (0x00000008#32, Instr.compress), (0x00000009#32, Instr.decompress)]

/-- Decoding and encoding agree: every instruction's word decodes to it, a legal word is the encoder's word of what it
decodes to, and the words that fail a check of `CommandWord.wf` are exactly the illegal ones. -/
def Obligations.DecodeAndEncodeAgree : Prop :=
  (∀ i : Instr, i.wf = true → decode (encode i) = .legal i) ∧
  (∀ (w : Word) (i : Instr), decode w = .legal i → encode i = w) ∧
  (∀ w : Word, CommandWord.wf w = false ↔ ∃ why, decode w = .illegal why)

/-- Words written out from R121, and illegal words of R122, decode to what they stand for. -/
def Obligations.WrittenWordsDecode : Prop :=
  decode 0b00000000000000000000000000000001#32 = .legal .count ∧
  decode 0b00000000000000000000000000000011#32 = .legal .derive ∧
  decode 0b00000000000000000000000000000110#32 = .legal .unpack ∧
  decode 0b00000000000000000000000000001001#32 = .legal .decompress ∧
  decode 0b00000000000000000000000000000111#32 = .illegal .opcodeUnassigned ∧
  decode 0b00000000000000000000000100000001#32 = .illegal .reservedBitsSet

/-! ## The step and the command protocol -/

/-- R162: when a command is running and the engine moves, the step is the command's meaning on the state with the turn taken. -/
def Obligations.StepRunsTheAcceptedCommand : Prop :=
  ∀ (s : State) (i : Instr), s.status.busy = true → decode s.cmd = .legal i → engineMoves s →
    step s = exec i (turnTaken s)

/-- R167: an accepted word that is no command raises ILLEGAL_CMD(0) with OP = w[7:0] and changes nothing else. -/
def Obligations.IllegalWordRaises : Prop :=
  ErrorKind.illegalCmd.number = 0x01 ∧
  ∀ (s : State) (why : IllegalWord), s.status.busy = true → decode s.cmd = .illegal why → engineMoves s →
    step s = .next (failedWith (turnTaken s) (s.cmd.extractLsb' 0 8) .illegalCmd 0)

/-- R170: an idle engine's turn changes nothing. -/
def Obligations.IdleEngineDoesNothing : Prop :=
  ∀ s : State, s.status.busy = false → engineMoves s → step s = .next (turnTaken s)

/-- R160, R161: what a write to CMD does, idle and busy. -/
def Obligations.CmdWriteIsAcceptedWhenIdle : Prop :=
  ∀ (s : State) (w : Word) (rest : List Turn), s.turns = .host (.regWrite 0x008 w) :: rest →
    (s.status.busy = false →
      step s = .next
        { s with
          turns := rest
          hostData := .nothing
          cmd := w
          errCode := ⟨.none, 0⟩
          errInfo := 0
          outLen := if w = 4 ∨ w = 6 ∨ w = 8 ∨ w = 9 then 0 else s.outLen
          bitCnt := if w = 4 ∨ w = 6 ∨ w = 8 ∨ w = 9 then 0 else s.bitCnt
          status := { s.status with busy := true, done := false, err := false } }) ∧
    (s.status.busy = true →
      step s = .next
        { s with turns := rest, hostData := .nothing, status := { s.status with ovr := true } })

/-- R165, R166: the engine's turn ends the running command: BUSY = 0, DONE = 1, and ERR = 1 exactly with an error code. -/
def Obligations.EngineTurnEndsTheCommand : Prop :=
  ∀ s : State, s.Inv → s.status.busy = true → engineMoves s →
    ∃ t, step s = .next t ∧ t.status.busy = false ∧ t.status.done = true ∧
      (t.status.err = true ↔ t.errCode.code ≠ .none) ∧ t.turns = s.turns.tail

/-- R162, R360: a running command ends within the turns that are left and one more: the model's form of weak fairness
(log entry 4). -/
def Obligations.BusyEnds : Prop :=
  ∀ s : State, s.status.busy = true →
    ∃ k, k ≤ s.turns.length + 1 ∧ ∃ t, Sys2Proof.core.run k s = .next t ∧ t.status.busy = false

/-! ## NOP and COUNT -/

/-- R276: NOP completes at once and does nothing else. -/
def Obligations.NopOnlyCompletes : Prop :=
  ∀ s : State, exec .nop s = .next { s with status := doneStatus s.status }

/-- R181, R183: COUNT writes every symbol's number of occurrences and clears both valid flags, or raises IN_RANGE.  That
the error leaves OUT_LEN and BITCNT as they were is R50, R166 and R305, against the words of R306 (log entry 13). -/
def Obligations.CountCountsEverySymbol : Prop :=
  ∀ s : State,
    (¬ s.ibufSize < s.inLen →
      ∃ t, exec .count s = .next t ∧
        (∀ k : Byte, (atSymbol t.freq k).toNat =
          ((List.range s.inLen.toNat).filter fun i => s.ibufAt i == k).length) ∧
        t = { s with
              freq := t.freq
              status := { doneStatus s.status with treeValid := false, cbValid := false } }) ∧
    (s.ibufSize < s.inLen → exec .count s = .next (failedWith s 0x01 .inRange 0))

/-- R182: after COUNT without error the frequencies add up to IN_LEN. -/
def Obligations.CountsAddUpToInLen : Prop :=
  ∀ s : State, ¬ s.ibufSize < s.inLen →
    ∃ t, exec .count s = .next t ∧ (t.freq.toList.map BitVec.toNat).sum = s.inLen.toNat

/-! ## BUILD -/

/-- R191, R192, R194, R195: BUILD makes the Huffman tree of FREQ, sets TREE_VALID, clears CB_VALID, and never fails. -/
def Obligations.BuildMakesTheHuffmanTree : Prop :=
  ∀ s : State, ∃ t, exec .build s = .next t ∧ IsHuffmanTree s.freq t.node ∧
    t = { s with node := t.node, status := { doneStatus s.status with treeValid := true, cbValid := false } }

/-- R197: children come before their parent, every node but the root is a child of exactly one internal node, and the
root's weight is the sum of FREQ. -/
def Obligations.BuiltNodesFormOneTree : Prop :=
  ∀ s : State, ∃ t, exec .build s = .next t ∧
    (∀ n, 256 ≤ n → n ≤ 510 → leftN t.node n < n ∧ rightN t.node n < n ∧
      weightN t.node n = weightN t.node (leftN t.node n) + weightN t.node (rightN t.node n)) ∧
    (∀ c, c ≤ 509 → ∃ n, (256 ≤ n ∧ n ≤ 510 ∧ (leftN t.node n = c ∨ rightN t.node n = c)) ∧
      ∀ m, 256 ≤ m → m ≤ 510 → (leftN t.node m = c ∨ rightN t.node m = c) → m = n) ∧
    (∀ n, 256 ≤ n → n ≤ 510 → leftN t.node n ≠ 510 ∧ rightN t.node n ≠ 510 ∧ leftN t.node n ≠ rightN t.node n) ∧
    weightN t.node 510 = (s.freq.toList.map BitVec.toNat).sum

/-- R199: merge weights never decrease. -/
def Obligations.MergeWeightsNeverDecrease : Prop :=
  ∀ s : State, ∃ t, exec .build s = .next t ∧
    ∀ k, k ≤ 253 → weightN t.node (256 + k) ≤ weightN t.node (256 + k + 1)

/-- R198: the NODE windows after BUILD depend on FREQ alone. -/
def Obligations.BuildDependsOnFreqAlone : Prop :=
  ∀ s s' t t' : State, s.freq = s'.freq → exec .build s = .next t → exec .build s' = .next t' →
    ∀ (n : NodeIndex) (w : BitVec 2), n.toNat ≤ 510 → nodeWindow t.node n w = nodeWindow t'.node n w

/-- R201: with equal frequencies, merge k joins nodes 2k and 2k+1. -/
def Obligations.EqualFrequenciesPairInOrder : Prop :=
  ∀ (s : State) (v : Word), (∀ k : Byte, atSymbol s.freq k = v) →
    ∃ t, exec .build s = .next t ∧
      ∀ k, k < 255 → leftN t.node (256 + k) = 2 * k ∧ rightN t.node (256 + k) = 2 * k + 1

/-- R202: with one nonzero frequency, the zero leaves are merged first and the root joins them (left) to that leaf. -/
def Obligations.OneSymbolTree : Prop :=
  ∀ (s : State) (c : Byte), atSymbol s.freq c ≠ 0 → (∀ k : Byte, k ≠ c → atSymbol s.freq k = 0) →
    ∃ t, exec .build s = .next t ∧
      (∀ k, k ≤ 253 → weightN t.node (256 + k) = 0 ∧
        leftN t.node (256 + k) ≠ c.toNat ∧ rightN t.node (256 + k) ≠ c.toNat) ∧
      leftN t.node 510 = 509 ∧ rightN t.node 510 = c.toNat ∧ weightN t.node 510 = (atSymbol s.freq c).toNat

/-! ## DERIVE -/

/-- R213, R214: DERIVE raises SEQUENCE without a tree; with one it writes CB and sets CB_VALID, and nothing else.  That
the error leaves OUT_LEN and BITCNT as they were is R50, R166 and R305, against the words of R306 (log entry 13). -/
def Obligations.DeriveNeedsATree : Prop :=
  ∀ s : State,
    (s.status.treeValid = false → exec .derive s = .next (failedWith s 0x03 .sequence 0)) ∧
    (s.status.treeValid = true →
      ∃ t, exec .derive s = .next t ∧ t = { s with cb := t.cb, status := { doneStatus s.status with cbValid := true } })

/-- R215, R217: after DERIVE from a built tree, every symbol's code is 1 to 255 bits, leads from the root to that symbol's
leaf, and passes internal nodes only before its last bit. -/
def Obligations.CodesLeadToTheirLeaves : Prop :=
  ∀ s : State, s.Inv → s.status.treeValid = true →
    ∃ t, exec .derive s = .next t ∧
      ∀ k : Byte,
        1 ≤ (atSymbol t.cb k).len.toNat ∧ (atSymbol t.cb k).len.toNat ≤ 255 ∧
        descend t.node 510 (atSymbol t.cb k).path = k.setWidth 9 ∧
        (∀ q, q <+: (atSymbol t.cb k).path → q ≠ (atSymbol t.cb k).path →
          256 ≤ (descend t.node 510 q).toNat) ∧
        (∀ j, (atSymbol t.cb k).len.toNat ≤ j → (atSymbol t.cb k).bits.getLsbD j = false)

/-- R216 (b): no code is a prefix of another. -/
def Obligations.CodesArePrefixFree : Prop :=
  ∀ s : State, s.Inv → s.status.treeValid = true →
    ∃ t, exec .derive s = .next t ∧
      ∀ a b : Byte, a ≠ b → ¬ (atSymbol t.cb a).path <+: (atSymbol t.cb b).path

/-- R216 (c): the code lengths meet Kraft's equality. -/
def Obligations.CodeLengthsMeetKraft : Prop :=
  ∀ s : State, s.Inv → s.status.treeValid = true →
    ∃ t, exec .derive s = .next t ∧ (t.cb.toList.map fun c => 2 ^ (255 - c.len.toNat)).sum = 2 ^ 255

/-- R218: with equal frequencies, BUILD and DERIVE give every symbol its 8-bit binary form, bit 7 first. -/
def Obligations.EqualFrequenciesGiveBinaryCodes : Prop :=
  ∀ (s : State) (v : Word), (∀ k : Byte, atSymbol s.freq k = v) →
    ∃ t u, exec .build s = .next t ∧ exec .derive t = .next u ∧
      ∀ k : Byte, (atSymbol u.cb k).len = 8 ∧ ∀ j, j ≤ 7 → (atSymbol u.cb k).bits.getLsbD j = k.getLsbD (7 - j)

/-! ## PACK -/

/-- R226, R300, R301: PACK's checks before any write, in their order. -/
def Obligations.PackChecksFirst : Prop :=
  ∀ s : State,
    (s.status.cbValid = false → exec .pack s = .next (failedWith s 0x04 .sequence 0)) ∧
    (s.status.cbValid = true → s.ibufSize < s.inLen → exec .pack s = .next (failedWith s 0x04 .inRange 0))

/-- R227 to R231: when the archive fits, PACK writes it, with OUT_LEN, BITCNT and TRUNC, and nothing else. -/
def Obligations.PackWritesTheArchive : Prop :=
  ∀ s : State, s.status.cbValid = true → ¬ s.ibufSize < s.inLen →
    260 + ((codeString s).length + 7) / 8 ≤ s.obufSize.toNat →
    ∃ t, exec .pack s = .next t ∧ PackedArchive s t ∧
      (t.status.trunc = true ↔ s.status.trunc = true ∨ truncates s.freq) ∧
      t = { s with
            obuf := t.obuf
            outLen := t.outLen
            bitCnt := t.bitCnt
            status := { doneStatus s.status with trunc := t.status.trunc } }

/-- R226, R232: when the archive does not fit, PACK raises OBUF_OVERFLOW at the first payload byte that does not, with
the index of the input byte being encoded, after writing the header and the payload bytes that fit. -/
def Obligations.PackOverflowStopsAtTheEnd : Prop :=
  ∀ s : State, s.status.cbValid = true → ¬ s.ibufSize < s.inLen → 260 ≤ s.obufSize.toNat →
    s.obufSize.toNat < 260 + ((codeString s).length + 7) / 8 →
    ∃ (t : State) (i : Nat), exec .pack s = .next t ∧
      i < s.inLen.toNat ∧ t.errInfo.toNat = i ∧
      ((s.input.take i).flatMap fun x => (atSymbol s.cb x).path).length ≤ 8 * (s.obufSize.toNat - 260) ∧
      8 * (s.obufSize.toNat - 260) < ((s.input.take (i + 1)).flatMap fun x => (atSymbol s.cb x).path).length ∧
      (∀ k, k < 4 → t.obufAt k = s.inLen.extractLsb' (8 * k) 8) ∧
      (∀ k : Byte, t.obufAt (4 + k.toNat) = (atSymbol s.freq k).extractLsb' 0 8) ∧
      (∀ p, p < 8 * (s.obufSize.toNat - 260) →
        (codeString s)[p]? = some ((t.obufAt (260 + p / 8)).getLsbD (p % 8))) ∧
      (∀ a, s.obufSize.toNat ≤ a → t.obufAt a = s.obufAt a) ∧
      (t.status.trunc = true ↔ s.status.trunc = true ∨ truncates s.freq) ∧
      t = { s with
            obuf := t.obuf
            errCode := ⟨.obufOverflow, 0x04⟩
            errInfo := t.errInfo
            status := { doneStatus s.status with err := true, trunc := t.status.trunc } }

/-! ## PARSE and UNPACK -/

/-- R246, R248, R249: PARSE's checks, and what it reads from the header; OBUF, OUT_LEN and the rest stay.  That its two
errors leave OUT_LEN and BITCNT as they were is R50, R166 and R305, against the words of R306 (log entry 13). -/
def Obligations.ParseReadsTheHeader : Prop :=
  ∀ s : State,
    (s.ibufSize < s.inLen → exec .parse s = .next (failedWith s 0x05 .inRange 0)) ∧
    (¬ s.ibufSize < s.inLen → s.inLen.toNat < 260 → exec .parse s = .next (failedWith s 0x05 .malformedShort 0)) ∧
    (¬ s.ibufSize < s.inLen → 260 ≤ s.inLen.toNat →
      ∃ t, exec .parse s = .next t ∧
        t.expLen.toNat = (s.ibufAt 0).toNat + 2 ^ 8 * (s.ibufAt 1).toNat + 2 ^ 16 * (s.ibufAt 2).toNat
          + 2 ^ 24 * (s.ibufAt 3).toNat ∧
        (∀ k : Byte, (atSymbol t.freq k).toNat = (s.ibufAt (4 + k.toNat)).toNat) ∧
        t = { s with
              expLen := t.expLen
              freq := t.freq
              status := { doneStatus s.status with treeValid := false, cbValid := false } })

/-- R253, R259, R300, R301: UNPACK's checks before any write, in their order. -/
def Obligations.UnpackChecksFirst : Prop :=
  ∀ s : State,
    (s.status.treeValid = false → exec .unpack s = .next (failedWith s 0x06 .sequence 0)) ∧
    (s.status.treeValid = true → s.ibufSize < s.inLen → exec .unpack s = .next (failedWith s 0x06 .inRange 0)) ∧
    (s.status.treeValid = true → ¬ s.ibufSize < s.inLen → s.inLen.toNat < 260 →
      exec .unpack s = .next (failedWith s 0x06 .malformedShort 0)) ∧
    (s.status.treeValid = true → ¬ s.ibufSize < s.inLen → 260 ≤ s.inLen.toNat → s.obufSize < s.expLen →
      exec .unpack s = .next (failedWith s 0x06 .obufOverflow 0))

/-- R253 to R258, R260: UNPACK emits the first EXP_LEN leaves the payload reaches, or, where it reaches fewer, those, and
raises MALFORMED_TRUNC with their number. -/
def Obligations.UnpackEmitsTheLeavesReached : Prop :=
  ∀ s : State, s.status.treeValid = true → ¬ s.ibufSize < s.inLen → 260 ≤ s.inLen.toNat → ¬ s.obufSize < s.expLen →
    (s.expLen.toNat ≤ (payloadLeaves s).length →
      ∃ t, exec .unpack s = .next t ∧ holdsSymbols s t s.expLen.toNat (payloadLeaves s) ∧
        (s.expLen = 0 → t.bitCnt = 0) ∧
        (s.expLen ≠ 0 → ((payloadLeaves s)[s.expLen.toNat - 1]?).map (·.2) = some t.bitCnt.toNat) ∧
        t = { s with obuf := t.obuf, outLen := s.expLen, bitCnt := t.bitCnt, status := doneStatus s.status }) ∧
    ((payloadLeaves s).length < s.expLen.toNat →
      ∃ t, exec .unpack s = .next t ∧ holdsSymbols s t (payloadLeaves s).length (payloadLeaves s) ∧
        t.errInfo.toNat = (payloadLeaves s).length ∧
        t = { failedWith s 0x06 .malformedTrunc t.errInfo with obuf := t.obuf })

/-- R262: a payload that begins with the codes of x_0 .. x_(m-1), m = EXP_LEN, decodes to them, whatever follows. -/
def Obligations.UnpackInvertsTheCodeBook : Prop :=
  ∀ (s : State) (x : List Byte), s.Inv → s.status.treeValid = true → ¬ s.ibufSize < s.inLen →
    260 ≤ s.inLen.toNat → ¬ s.obufSize < s.expLen → x.length = s.expLen.toNat →
    (x.flatMap fun k => (atSymbol (deriveBook s.node s.cb) k).path) <+: s.payload →
    ∃ t, exec .unpack s = .next t ∧ t.status = doneStatus s.status ∧ t.errCode = s.errCode ∧ t.outLen = s.expLen ∧
      ∀ j (h : j < x.length), t.obufAt j = x[j]

/-! ## COMPRESS and DECOMPRESS -/

/-- R277, R278: COMPRESS raises COUNT's IN_RANGE and changes nothing else; otherwise it is PACK on the counted, built and
derived state, and where the archive fits it completes with it. -/
def Obligations.CompressRunsItsSteps : Prop :=
  ∀ s : State,
    (s.ibufSize < s.inLen → exec .compress s = .next (failedWith s 0x01 .inRange 0)) ∧
    (¬ s.ibufSize < s.inLen → exec .compress s = exec .pack (beforePack s)) ∧
    (¬ s.ibufSize < s.inLen → 260 + ((codeString (beforePack s)).length + 7) / 8 ≤ s.obufSize.toNat →
      ∃ t, exec .compress s = .next t ∧ PackedArchive (beforePack s) t ∧
        t = { beforePack s with
              obuf := t.obuf
              outLen := t.outLen
              bitCnt := t.bitCnt
              status := { doneStatus (beforePack s).status with trunc := t.status.trunc } })

/-- R277, R280: DECOMPRESS raises PARSE's errors and changes nothing else; otherwise it is UNPACK on the parsed and built
state, and where the payload holds the declared symbols and they fit it completes with them. -/
def Obligations.DecompressRunsItsSteps : Prop :=
  ∀ s : State,
    (s.ibufSize < s.inLen → exec .decompress s = .next (failedWith s 0x05 .inRange 0)) ∧
    (¬ s.ibufSize < s.inLen → s.inLen.toNat < 260 →
      exec .decompress s = .next (failedWith s 0x05 .malformedShort 0)) ∧
    (¬ s.ibufSize < s.inLen → 260 ≤ s.inLen.toNat → exec .decompress s = exec .unpack (beforeUnpack s)) ∧
    (¬ s.ibufSize < s.inLen → 260 ≤ s.inLen.toNat → ¬ s.obufSize < s.headerLength →
      s.headerLength.toNat ≤ (payloadLeaves (beforeUnpack s)).length →
      ∃ t, exec .decompress s = .next t ∧
        holdsSymbols s t s.headerLength.toNat (payloadLeaves (beforeUnpack s)) ∧
        t = { beforeUnpack s with
              obuf := t.obuf
              outLen := s.headerLength
              bitCnt := t.bitCnt
              status := doneStatus (beforeUnpack s).status })

/-- R279: COMPRESS never raises SEQUENCE, and without error its end state is that of COUNT, BUILD, DERIVE and PACK written
to CMD one after another, but for the value of CMD. -/
def Obligations.CompressEqualsItsFourCommands : Prop :=
  (∀ s t : State, exec .compress s = .next t → t.errCode.code = .sequence → s.errCode.code = .sequence) ∧
  ∀ s t : State, s.status.busy = false →
    Sys2Proof.core.run 2 (s.withProgram (wr 0x008 8 ++ [.engine])) = .next t → t.status.err = false →
    Sys2Proof.core.run 8 (s.withProgram
      (wr 0x008 1 ++ [.engine] ++ wr 0x008 2 ++ [.engine] ++ wr 0x008 3 ++ [.engine] ++ wr 0x008 4 ++ [.engine])) =
      .next { t with cmd := 4 }

/-- R281: without error DECOMPRESS's end state is that of PARSE, BUILD and UNPACK written to CMD one after another, but for
the value of CMD. -/
def Obligations.DecompressEqualsItsThreeCommands : Prop :=
  ∀ s t : State, s.status.busy = false →
    Sys2Proof.core.run 2 (s.withProgram (wr 0x008 9 ++ [.engine])) = .next t → t.status.err = false →
    Sys2Proof.core.run 6 (s.withProgram
      (wr 0x008 5 ++ [.engine] ++ wr 0x008 2 ++ [.engine] ++ wr 0x008 6 ++ [.engine])) =
      .next { t with cmd := 6 }

/-- R282: COMPRESS, then DECOMPRESS of its archive, gives the data back whenever no symbol occurs more than 255 times and
both complete without error. -/
def Obligations.CompressThenDecompressIsTheIdentity : Prop :=
  ∀ s t s' u : State,
    (∀ k : Byte, ((List.range s.inLen.toNat).filter fun i => s.ibufAt i == k).length ≤ 255) →
    exec .compress s = .next t → t.status.err = false →
    s'.inLen = t.outLen → (∀ j, j < t.outLen.toNat → s'.ibufAt j = t.obufAt j) →
    exec .decompress s' = .next u → u.status.err = false →
    u.outLen = s.inLen ∧ ∀ j, j < s.inLen.toNat → u.obufAt j = s.ibufAt j

/-! ## Host accesses -/

/-- R163: while BUSY = 1 a write to IN_LEN, EXP_LEN, FREQ[k] or IBUF is dropped and sets OVR; when idle IN_LEN and EXP_LEN
take the value. -/
def Obligations.LockedWritesAreDroppedWhileBusy : Prop :=
  ∀ (s : State) (a : HostAccess) (rest : List Turn), s.turns = .host a :: rest →
    (s.status.busy = true →
      ((∃ v, a = .regWrite 0x018 v) ∨ (∃ v, a = .regWrite 0x01C v) ∨
        (∃ off v, ∃ k : Byte, a = .regWrite off v ∧ off.toNat = 0x400 + 4 * k.toNat) ∨ ∃ i b, a = .ibufWrite i b) →
      step s = .next
        { s with turns := rest, hostData := .nothing, status := { s.status with ovr := true } }) ∧
    (s.status.busy = false → ∀ v,
      (a = .regWrite 0x018 v → step s = .next { s with turns := rest, hostData := .nothing, inLen := v }) ∧
      (a = .regWrite 0x01C v → step s = .next { s with turns := rest, hostData := .nothing, expLen := v }))

/-- R53, R58, R61, R93: a write to a misaligned, reserved, read-only or window offset changes nothing, busy or not. -/
def Obligations.OtherRegisterWritesAreIgnored : Prop :=
  ∀ (s : State) (off : RegOffset) (v : Word) (rest : List Turn),
    s.turns = .host (.regWrite off v) :: rest → ¬ writable off →
    step s = .next { s with turns := rest, hostData := .nothing }

/-- R54, R55: a write to FREQ[k] when idle writes it, keeps the others, and clears both valid flags. -/
def Obligations.FreqWriteInvalidates : Prop :=
  ∀ (s : State) (k : Byte) (off : RegOffset) (v : Word) (rest : List Turn),
    off.toNat = 0x400 + 4 * k.toNat → s.turns = .host (.regWrite off v) :: rest → s.status.busy = false →
    ∃ t, step s = .next t ∧ (∀ j : Byte, atSymbol t.freq j = if j = k then v else atSymbol s.freq j) ∧
      t = { s with
            turns := rest
            hostData := .nothing
            freq := t.freq
            status := { s.status with treeValid := false, cbValid := false } }

/-- R38: a write to STATUS clears, of bits 1 to 4, those written with 1, at any time, and changes nothing else. -/
def Obligations.StatusWriteClearsOnes : Prop :=
  ∀ (s : State) (v : Word) (rest : List Turn), s.turns = .host (.regWrite 0x00C v) :: rest →
    ∃ t, step s = .next t ∧ t.status.word = s.status.word &&& ~~~(v &&& 0x0000001E) ∧
      t = { s with turns := rest, hostData := .nothing, status := t.status }

/-- R34 to R36: a write to CTRL with bit 1 = 0 sets IE and nothing else; with bit 1 = 1 it resets every register, leaves
IE = 0, keeps IBUF, and keeps OBUF when idle. -/
def Obligations.CtrlWriteSetsIeOrResets : Prop :=
  ∀ (s : State) (v : Word) (rest : List Turn), s.turns = .host (.regWrite 0x004 v) :: rest →
    (v.getLsbD 1 = false →
      step s = .next { s with turns := rest, hostData := .nothing, ie := v.getLsbD 0 }) ∧
    (v.getLsbD 1 = true →
      ∃ t, step s = .next t ∧ t.ie = false ∧ t.cmd = 0 ∧ t.status.word = 0 ∧ t.errCode.word = 0 ∧ t.errInfo = 0 ∧
        t.inLen = 0 ∧ t.expLen = 0 ∧ t.outLen = 0 ∧ t.bitCnt = 0 ∧ (∀ k : Byte, atSymbol t.freq k = 0) ∧
        t.ibufSize = s.ibufSize ∧ t.obufSize = s.obufSize ∧ t.irq = false ∧
        (∀ i, t.ibufAt i = s.ibufAt i) ∧ (s.status.busy = false → ∀ i, t.obufAt i = s.obufAt i))

/-- R68, R340: power-on reset, busy or idle, leaves every register at its reset value and the capacities as they are. -/
def Obligations.PowerResetClearsTheRegisters : Prop :=
  ∀ (s : State) (rest : List Turn), s.turns = .host .powerReset :: rest →
    ∃ t, step s = .next t ∧ t.turns = rest ∧ t.hostData = .nothing ∧ t.ie = false ∧ t.cmd = 0 ∧ t.status.word = 0 ∧
      t.errCode.word = 0 ∧ t.errInfo = 0 ∧ t.inLen = 0 ∧ t.expLen = 0 ∧ t.outLen = 0 ∧ t.bitCnt = 0 ∧
      (∀ k : Byte, atSymbol t.freq k = 0) ∧ t.ibufSize = s.ibufSize ∧ t.obufSize = s.obufSize ∧ t.irq = false

/-- R33 to R54, R103: what RegRead returns at the control registers and FREQ when idle, with no other effect. -/
def Obligations.RegisterReadsWhenIdle : Prop :=
  ∀ (s : State) (off : RegOffset) (rest : List Turn), s.turns = .host (.regRead off) :: rest → s.status.busy = false →
    ∃ v, step s = .next { s with turns := rest, hostData := .word v } ∧
      (off = 0x000 → v = 0x48554631) ∧
      (off = 0x004 → v.getLsbD 0 = s.ie ∧ ∀ j, 1 ≤ j → v.getLsbD j = false) ∧
      (off = 0x008 → v = s.cmd) ∧
      (off = 0x00C → v.getLsbD 0 = s.status.busy ∧ v.getLsbD 1 = s.status.done ∧ v.getLsbD 2 = s.status.err ∧
        v.getLsbD 3 = s.status.ovr ∧ v.getLsbD 4 = s.status.trunc ∧ v.getLsbD 5 = s.status.treeValid ∧
        v.getLsbD 6 = s.status.cbValid ∧ ∀ j, 7 ≤ j → v.getLsbD j = false) ∧
      (off = 0x010 → v.extractLsb' 0 8 = s.errCode.code.number ∧ v.extractLsb' 8 8 = s.errCode.op ∧
        v.extractLsb' 16 16 = 0) ∧
      (off = 0x014 → v = s.errInfo) ∧ (off = 0x018 → v = s.inLen) ∧ (off = 0x01C → v = s.expLen) ∧
      (off = 0x020 → v = s.outLen) ∧ (off = 0x024 → v = s.bitCnt.extractLsb' 0 32) ∧
      (off = 0x028 → v = s.bitCnt.extractLsb' 32 32) ∧ (off = 0x02C → v = s.ibufSize) ∧
      (off = 0x030 → v = s.obufSize) ∧
      (∀ k : Byte, off.toNat = 0x400 + 4 * k.toNat → v = atSymbol s.freq k) ∧
      (off.toNat % 4 ≠ 0 ∨ (0x030 < off.toNat ∧ off.toNat < 0x400) ∨ (0x800 ≤ off.toNat ∧ off.toNat < 0x2000) ∨
        (0x3FF0 ≤ off.toNat ∧ off.toNat < 0x4000) → v = 0)

/-- R164: while BUSY = 1 the results read 0, and ID, CTRL, CMD, STATUS, IN_LEN and the capacities read their values. -/
def Obligations.ResultsReadZeroWhileBusy : Prop :=
  ∀ (s : State) (a : HostAccess) (rest : List Turn), s.turns = .host a :: rest → s.status.busy = true →
    (∀ off, a = .regRead off →
      ∃ v, step s = .next { s with turns := rest, hostData := .word v } ∧
        (off = 0x000 → v = 0x48554631) ∧ (off = 0x004 → v.toNat = s.ie.toNat) ∧ (off = 0x008 → v = s.cmd) ∧
        (off = 0x00C → v = s.status.word ∧ v.getLsbD 0 = true) ∧ (off = 0x018 → v = s.inLen) ∧
        (off = 0x02C → v = s.ibufSize) ∧ (off = 0x030 → v = s.obufSize) ∧
        (off ∉ [0x000#15, 0x004#15, 0x008#15, 0x00C#15, 0x018#15, 0x02C#15, 0x030#15] → v = 0)) ∧
    (∀ i, a = .ibufRead i ∨ a = .obufRead i → step s = .next { s with turns := rest, hostData := .byte 0 })

/-- R58, R136: the NODE window's words when idle. -/
def Obligations.NodeWindowLayout : Prop :=
  ∀ (s : State) (n : NodeIndex) (w : BitVec 2) (off : RegOffset) (rest : List Turn),
    n.toNat ≤ 510 → off.toNat = 0x2000 + 16 * n.toNat + 4 * w.toNat → s.turns = .host (.regRead off) :: rest →
    s.status.busy = false →
    ∃ v, step s = .next { s with turns := rest, hostData := .word v } ∧
      (s.status.treeValid = false → v = 0) ∧
      (s.status.treeValid = true →
        (w = 0 → v.getLsbD 31 = decide (256 ≤ n.toNat) ∧ v.extractLsb' 25 6 = 0 ∧ v.extractLsb' 9 7 = 0 ∧
          v.extractLsb' 16 9 = (if 256 ≤ n.toNat then (nodeAt s.node n).right else 0) ∧
          v.extractLsb' 0 9 = (if 256 ≤ n.toNat then (nodeAt s.node n).left else 0)) ∧
        (w = 1 → v.toNat = if n.toNat < 256 then n.toNat else 0) ∧
        (w = 2 → v.toNat = (nodeAt s.node n).weight.toNat % 2 ^ 32) ∧
        (w = 3 → v.toNat = (nodeAt s.node n).weight.toNat / 2 ^ 32))

/-- R61, R137: the CB window's words when idle. -/
def Obligations.CodeBookWindowLayout : Prop :=
  ∀ (s : State) (k : Byte) (w : BitVec 4) (off : RegOffset) (rest : List Turn),
    off.toNat = 0x4000 + 64 * k.toNat + 4 * w.toNat → s.turns = .host (.regRead off) :: rest → s.status.busy = false →
    ∃ v, step s = .next { s with turns := rest, hostData := .word v } ∧
      (s.status.cbValid = false → v = 0) ∧
      (s.status.cbValid = true →
        (w = 0 → v.toNat = (atSymbol s.cb k).len.toNat) ∧
        (1 ≤ w.toNat → w.toNat ≤ 8 → ∀ b, b < 32 →
          v.getLsbD b = (atSymbol s.cb k).bits.getLsbD (32 * (w.toNat - 1) + b)) ∧
        (9 ≤ w.toNat → v = 0))

/-- R95 to R97: buffer accesses when idle: an index in range is read or written, an index out of range reads 0 or is ignored. -/
def Obligations.BufferAccessesWhenIdle : Prop :=
  ∀ (s : State) (a : HostAccess) (rest : List Turn), s.turns = .host a :: rest → s.status.busy = false →
    (∀ i, a = .ibufRead i →
      step s = .next
        { s with turns := rest, hostData := .byte (if i.toNat < s.ibufSize.toNat then s.ibufAt i.toNat else 0) }) ∧
    (∀ i, a = .obufRead i →
      step s = .next
        { s with turns := rest, hostData := .byte (if i.toNat < s.obufSize.toNat then s.obufAt i.toNat else 0) }) ∧
    (∀ i b, a = .ibufWrite i b →
      ∃ t, step s = .next t ∧
        (∀ j, t.ibufAt j = if j = i.toNat ∧ i.toNat < s.ibufSize.toNat then b else s.ibufAt j) ∧
        t = { s with turns := rest, hostData := .nothing, ibuf := t.ibuf })

/-! ## Whole-machine rules -/

/-- The invariant holds after reset.  The capacities and the contents of NODE and CB there are the model's choice (log
entries 1 and 2). -/
def Obligations.InvAtReset : Prop := State.reset.Inv

/-- Every step keeps the invariant: the buffers stay canonical and in range, CB_VALID needs TREE_VALID, the valid flags
tell the truth about NODE and CB, and the error record agrees with STATUS. -/
def Obligations.StepKeepsInv : Prop := ∀ s t : State, s.Inv → step s = .next t → t.Inv

/-- R48, R62, R52: the engine's turn changes no host register, not IBUF, and nobody changes the capacities. -/
def Obligations.EngineLeavesTheHostsState : Prop :=
  ∀ s t : State, step s = .next t →
    t.ibufSize = s.ibufSize ∧ t.obufSize = s.obufSize ∧
    (engineMoves s → t.ie = s.ie ∧ t.cmd = s.cmd ∧ t.inLen = s.inLen ∧ t.ibuf = s.ibuf ∧ t.ibufEpoch = s.ibufEpoch ∧
      t.obufEpoch = s.obufEpoch ∧ t.hostData = s.hostData ∧ t.status.ovr = s.status.ovr)

/-- R44, R45, R214: TREE_VALID rises only in BUILD, alone or in a macro, and CB_VALID only in DERIVE or COMPRESS. -/
def Obligations.ValidFlagsRiseOnlyInBuildAndDerive : Prop :=
  ∀ s t : State, step s = .next t →
    (s.status.treeValid = false → t.status.treeValid = true → s.status.busy = true ∧ engineMoves s ∧
      (decode s.cmd = .legal .build ∨ decode s.cmd = .legal .compress ∨ decode s.cmd = .legal .decompress)) ∧
    (s.status.cbValid = false → t.status.cbValid = true → s.status.busy = true ∧ engineMoves s ∧
      (decode s.cmd = .legal .derive ∨ decode s.cmd = .legal .compress))

/-- R42, R43: OVR and TRUNC fall only by a write of 1 to their bit or by a reset; TRUNC rises only in PACK or COMPRESS. -/
def Obligations.StickyFlagsFallOnlyByTheHost : Prop :=
  ∀ s t : State, step s = .next t →
    (s.status.ovr = true → t.status.ovr = false →
      ∃ rest, s.turns = .host .powerReset :: rest ∨
        (∃ v, s.turns = .host (.regWrite 0x004 v) :: rest ∧ v.getLsbD 1 = true) ∨
        ∃ v, s.turns = .host (.regWrite 0x00C v) :: rest ∧ v.getLsbD 3 = true) ∧
    (s.status.trunc = true → t.status.trunc = false →
      ∃ rest, s.turns = .host .powerReset :: rest ∨
        (∃ v, s.turns = .host (.regWrite 0x004 v) :: rest ∧ v.getLsbD 1 = true) ∨
        ∃ v, s.turns = .host (.regWrite 0x00C v) :: rest ∧ v.getLsbD 4 = true) ∧
    (s.status.trunc = false → t.status.trunc = true → s.status.busy = true ∧ engineMoves s ∧
      (decode s.cmd = .legal .pack ∨ decode s.cmd = .legal .compress))

/-- R310, R311: irq is IE AND DONE; it rises only at a completion while IE = 1 or when IE is set while DONE = 1. -/
def Obligations.IrqFollowsDone : Prop :=
  (∀ s : State, s.irq = (s.ie && s.status.done)) ∧
  ∀ s t : State, step s = .next t → s.irq = false → t.irq = true →
    (s.ie = true ∧ s.status.busy = true ∧ engineMoves s ∧ t.status.done = true) ∨
    (s.status.done = true ∧ ∃ v rest, s.turns = .host (.regWrite 0x004 v) :: rest ∧ v.getLsbD 0 = true ∧
      v.getLsbD 1 = false)

/-- R57, R58, R60, R61, R112: NODE and CB contents whose valid flag is 0 can never be learned: states that differ there
only answer every step alike and go on differing there only. -/
def Obligations.StaleTreeAndBookStayHidden : Prop :=
  ∀ s s' t : State, s.Inv → s'.Inv → SameButStale s s' → step s = .next t →
    ∃ t', step s' = .next t' ∧ SameButStale t t'

/-- R346: when every IBUF byte below IN_LEN has been written, no command's outcome depends on what the unwritten bytes
hold, said through the model's counter that picks their values (log entry 3). -/
def Obligations.WrittenInputDecidesTheOutcome : Prop :=
  ∀ (i : Instr) (s t : State) (e : Nat), s.inputWritten → exec i s = .next t →
    exec i { s with ibufEpoch := e } = .next { t with ibufEpoch := e }

/-- R161, R166, R306: where a word of an output command ends with an error, OUT_LEN and BITCNT are 0; no other word, a
command or not, changes them, however it ends.  For an illegal word the second clause is R167; for COUNT, PARSE and
DERIVE it is R50, R166 and R305, against the words of R306 (log entry 13). -/
def Obligations.ErrorsLeaveNoResult : Prop :=
  ∀ s : State, s.Inv → s.status.busy = true → engineMoves s →
    ∃ t, step s = .next t ∧
      (s.cmd ∈ [4#32, 6#32, 8#32, 9#32] → t.status.err = true → t.outLen = 0 ∧ t.bitCnt = 0) ∧
      (s.cmd ∉ [4#32, 6#32, 8#32, 9#32] → t.outLen = s.outLen ∧ t.bitCnt = s.bitCnt)
end

