-- ==== Sys2Proof/Laws/Arrays.lean ====
section
/-! SUPPORT. What the arrays indexed by a symbol or a node read as after an update, and what BUILD and DERIVE leave in
NODE and CB when they are done again. -/

namespace Sys2Proof.Machine

@[simp] theorem getElem_tabulate {α : Type} {n : Nat} (f : Fin n → α) (i : Nat) (h : i < n) :
    (tabulate f)[i] = f ⟨i, h⟩ := by
  simp [tabulate]

/-- Reading a symbol's entry after one entry was replaced. -/
@[simp] theorem atSymbol_setSymbol {α : Type} (v : Vector α 256) (s : Byte) (x : α) (k : Byte) :
    atSymbol (setSymbol v s x) k = if s = k then x else atSymbol v k := by
  unfold atSymbol setSymbol
  rw [Vector.getElem_set]
  simp [BitVec.toNat_inj]

/-- Two arrays with the same entry for every symbol are equal. -/
theorem eq_of_atSymbol {α : Type} {v w : Vector α 256} (h : ∀ s, atSymbol v s = atSymbol w s) : v = w := by
  apply Vector.ext
  intro i hi
  have := h (BitVec.ofNat 8 i)
  simpa [atSymbol, Nat.mod_eq_of_lt hi] using this

@[simp] theorem atSymbol_replicate {α : Type} (x : α) (s : Byte) : atSymbol (Vector.replicate 256 x) s = x := by
  simp [atSymbol]

/-- The record of a node in the tree BUILD makes: a leaf's. -/
theorem buildTree_leaf (freq : Vector Word 256) (old : Vector Node 511) {n : Nat} (h : n < 256) :
    (buildTree freq old)[n] = { old[n] with weight := freq[n].setWidth 40 } := by
  simp [buildTree, h]

/-- The record of a node in the tree BUILD makes: an internal node's. -/
theorem buildTree_internal (freq : Vector Word 256) (old : Vector Node 511) {n : Nat} (h : 256 ≤ n) (hn : n < 511) :
    (buildTree freq old)[n] = ((treeMerges freq)[n - 256]?.map Merge.node).getD old[n] := by
  simp only [buildTree, getElem_tabulate]
  rw [dif_neg (by omega)]
  cases (treeMerges freq)[n - 256]? <;> rfl

/-- BUILD done again on its own result, from the same FREQ, changes nothing. -/
theorem buildTree_again (freq : Vector Word 256) (old : Vector Node 511) :
    buildTree freq (buildTree freq old) = buildTree freq old := by
  apply Vector.ext
  intro n hn
  by_cases h : n < 256
  · simp [buildTree_leaf _ _ h]
  · rw [buildTree_internal _ _ (by omega) hn, buildTree_internal _ _ (by omega) hn]
    cases (treeMerges freq)[n - 256]? <;> rfl

/-- An entry of CB after the walk either is the old one, whatever it was, or does not depend on the old CB. -/
theorem walk_entry (tree : Vector Node 511) (fuel : Nat) (stack : List (NodeIndex × List Bool)) (i : Nat) (hi : i < 256) :
    (∀ cb, (walk tree fuel stack cb)[i] = cb[i]) ∨ ∃ x, ∀ cb, (walk tree fuel stack cb)[i] = x := by
  induction fuel generalizing stack with
  | zero => exact .inl fun _ => rfl
  | succ fuel ih =>
    match stack with
    | [] => exact .inl fun _ => rfl
    | (n, p) :: stack =>
      by_cases h : n.toNat < 256
      · simp only [walk, h, dif_pos]
        rcases ih stack with k | ⟨x, k⟩
        · by_cases e : n.toNat = i
          · exact .inr ⟨Code.ofPath p, fun cb => by rw [k, Vector.getElem_set, if_pos e]⟩
          · exact .inl fun cb => by rw [k, Vector.getElem_set, if_neg e]
        · exact .inr ⟨x, fun cb => k _⟩
      · simp only [walk, h, dif_neg, not_false_eq_true]
        exact ih _

/-- DERIVE done again from the same NODE changes nothing. -/
theorem deriveBook_again (tree : Vector Node 511) (old : Vector Code 256) :
    deriveBook tree (deriveBook tree old) = deriveBook tree old := by
  apply Vector.ext
  intro i hi
  rcases walk_entry tree 511 [(root, [])] i hi with h | ⟨x, h⟩
  · exact h _
  · exact (h _).trans (h _).symm

end Sys2Proof.Machine
end

