-- ==== Sys2Proof/Laws/Memory.lean ====
section
/-! SUPPORT. What the memory operations do: read after write, and that every write keeps the canonical form. -/

namespace Sys2Proof.Machine

@[simp] theorem Memory.lookup_nil (i : Nat) : Memory.lookup [] i = none := rfl

@[simp] theorem Memory.lookup_cons (a : Nat) (b : BitVec 8) (m : Memory) (i : Nat) :
    Memory.lookup ((a, b) :: m) i = if a = i then some b else Memory.lookup m i := rfl

/-- Read after write: the written index holds the byte, every other index is as before. -/
@[simp] theorem Memory.lookup_write (m : Memory) (i : Nat) (b : Byte) (j : Nat) :
    (m.write i b).lookup j = if i = j then some b else m.lookup j := by
  induction m with
  | nil => rfl
  | cons c m ih =>
    obtain ⟨a, c⟩ := c
    simp only [Memory.write]
    split
    · rfl
    · split
      · rename_i h; subst h; simp only [Memory.lookup_cons]; split <;> rfl
      · simp only [Memory.lookup_cons, ih]
        split
        · rename_i h; subst h; rw [if_neg ‹_›]
        · rfl

/-- Read after a block of writes. -/
theorem Memory.lookup_writeFrom (m : Memory) (i : Nat) (bs : List Byte) (j : Nat) :
    (m.writeFrom i bs).lookup j = if i ≤ j ∧ j < i + bs.length then bs[j - i]? else m.lookup j := by
  induction bs generalizing m i with
  | nil => simp only [Memory.writeFrom, List.length_nil]; rw [if_neg (by omega)]
  | cons b bs ih =>
    simp only [Memory.writeFrom, ih, Memory.lookup_write, List.length_cons]
    by_cases h : i = j
    · subst h; rw [if_neg (by omega), if_pos rfl, if_pos (by omega)]; simp
    · by_cases h' : i + 1 ≤ j ∧ j < i + 1 + bs.length
      · rw [if_pos h', if_pos (by omega), show j - i = (j - (i + 1)) + 1 by omega, List.getElem?_cons_succ]
      · rw [if_neg h', if_neg h, if_neg (by omega)]

/-- The entries of a write are the old entries and the new one. -/
theorem Memory.mem_write {m : Memory} {i : Nat} {b : Byte} {c : Host.Cell} (h : c ∈ m.write i b) :
    c = (i, b) ∨ c ∈ m := by
  induction m with
  | nil => simpa [Memory.write] using h
  | cons d m ih =>
    obtain ⟨a, d⟩ := d
    simp only [Memory.write] at h
    split at h
    · simpa using h
    · split at h <;> rcases List.mem_cons.1 h with h | h
      · exact .inl h
      · exact .inr (List.mem_cons_of_mem _ h)
      · exact .inr (h ▸ List.mem_cons_self ..)
      · exact (ih h).imp id (List.mem_cons_of_mem _)

/-- A write inside the buffer keeps the canonical form. -/
theorem Memory.write_wf {size : Nat} {m : Memory} {i : Nat} (b : Byte) (hm : Memory.wf size m) (hi : i < size) :
    Memory.wf size (m.write i b) := by
  refine ⟨?_, fun c hc => ?_⟩
  · induction m with
    | nil => exact List.pairwise_singleton ..
    | cons d m ih =>
      obtain ⟨a, d⟩ := d
      obtain ⟨hp, hb⟩ := hm
      obtain ⟨hd, hq⟩ := List.pairwise_cons.1 hp
      simp only [Memory.write]
      split
      · rename_i h
        refine List.pairwise_cons.2 ⟨fun x hx => ?_, hp⟩
        rcases List.mem_cons.1 hx with rfl | hx
        · exact h
        · exact Nat.lt_trans h (hd x hx)
      · split
        · rename_i h; subst h; exact List.pairwise_cons.2 ⟨hd, hq⟩
        · refine List.pairwise_cons.2
            ⟨fun x hx => ?_, ih ⟨hq, fun c hc => hb c (List.mem_cons_of_mem _ hc)⟩⟩
          rcases Memory.mem_write hx with rfl | hx
          · show a < i; omega
          · exact hd x hx
  · rcases Memory.mem_write hc with rfl | hc
    · exact hi
    · exact hm.2 c hc

/-- A block of writes inside the buffer keeps the canonical form. -/
theorem Memory.writeFrom_wf {size : Nat} (bs : List Byte) {m : Memory} {i : Nat} (hm : Memory.wf size m)
    (hi : i + bs.length ≤ size) : Memory.wf size (m.writeFrom i bs) := by
  induction bs generalizing m i with
  | nil => exact hm
  | cons b bs ih =>
    rw [List.length_cons] at hi
    exact ih (Memory.write_wf b hm (by omega)) (by omega)

/-- An index with a listed byte lies in the buffer. -/
theorem Memory.lookup_lt {size : Nat} {m : Memory} {i : Nat} {b : Byte} (hm : ∀ c ∈ m, c.1 < size)
    (h : m.lookup i = some b) : i < size := by
  induction m with
  | nil => cases h
  | cons d m ih =>
    obtain ⟨a, d⟩ := d
    rw [Memory.lookup_cons] at h
    split at h
    · rename_i e; exact e ▸ hm _ (List.mem_cons_self ..)
    · exact ih (fun c hc => hm c (List.mem_cons_of_mem _ hc)) h

/-- Below every listed index nothing is listed. -/
theorem Memory.lookup_none_of_lt {m : Memory} {i : Nat} (h : ∀ c ∈ m, i < c.1) : m.lookup i = none := by
  induction m with
  | nil => rfl
  | cons d m ih =>
    obtain ⟨a, d⟩ := d
    have := h _ (List.mem_cons_self ..)
    rw [Memory.lookup_cons, if_neg (by simp only at this; omega)]
    exact ih fun c hc => h c (List.mem_cons_of_mem _ hc)

/-- Canonical form: equal contents are equal lists. -/
theorem Memory.eq_of_lookup {m m' : Memory} (h : List.Pairwise (fun x y : Host.Cell => x.1 < y.1) m)
    (h' : List.Pairwise (fun x y : Host.Cell => x.1 < y.1) m') (e : ∀ i, m.lookup i = m'.lookup i) : m = m' := by
  induction m generalizing m' with
  | nil =>
    cases m' with
    | nil => rfl
    | cons c m' => obtain ⟨a, b⟩ := c; have := e a; simp at this
  | cons c m ih =>
    cases m' with
    | nil => obtain ⟨a, b⟩ := c; have := e a; simp at this
    | cons c' m' =>
      obtain ⟨a, b⟩ := c
      obtain ⟨a', b'⟩ := c'
      obtain ⟨hd, hp⟩ := List.pairwise_cons.1 h
      obtain ⟨hd', hp'⟩ := List.pairwise_cons.1 h'
      have ha : a = a' := by
        rcases Nat.lt_trichotomy a a' with lt | eq | lt
        · have h1 := e a
          rw [Memory.lookup_cons, if_pos rfl, Memory.lookup_none_of_lt] at h1
          · cases h1
          · intro c hc
            rcases List.mem_cons.1 hc with rfl | hc
            · exact lt
            · exact Nat.lt_trans lt (hd' c hc)
        · exact eq
        · have h1 := e a'
          rw [Memory.lookup_cons a' b', if_pos rfl, Memory.lookup_none_of_lt] at h1
          · cases h1
          · intro c hc
            rcases List.mem_cons.1 hc with rfl | hc
            · exact lt
            · exact Nat.lt_trans lt (hd c hc)
      subst ha
      have hb : b = b' := by simpa using e a
      subst hb
      congr 1
      refine ih hp hp' fun i => ?_
      by_cases hi : a = i
      · subst hi
        rw [Memory.lookup_none_of_lt hd, Memory.lookup_none_of_lt hd']
      · simpa [hi] using e i

end Sys2Proof.Machine
end

