-- ==== Sys2Proof/Laws/PerInstr.lean ====
section
/-! SUPPORT. Facts about each instruction as syntax, one lemma per constructor. -/

namespace Sys2Proof.Laws.WordForm

/-- The encoder's word of an instruction passes both checks of a command word, and OPC is the instruction's opcode. -/
def Statement (i : Instr) : Prop := CommandWord.wf (encode i) = true ∧ opcField (encode i) = i.opcode

theorem nop : Statement .nop := ⟨rfl, rfl⟩
theorem count : Statement .count := ⟨rfl, rfl⟩
theorem build : Statement .build := ⟨rfl, rfl⟩
theorem derive : Statement .derive := ⟨rfl, rfl⟩
theorem pack : Statement .pack := ⟨rfl, rfl⟩
theorem parse : Statement .parse := ⟨rfl, rfl⟩
theorem unpack : Statement .unpack := ⟨rfl, rfl⟩
theorem compress : Statement .compress := ⟨rfl, rfl⟩
theorem decompress : Statement .decompress := ⟨rfl, rfl⟩

end Sys2Proof.Laws.WordForm
end

