-- ==== Sys2Proof/Laws/State.lean ====
section
/-! SUPPORT. One lemma per field per update of `State` and of `Status`, each true by `rfl`, so that no proof unfolds a
record update. -/

namespace Sys2Proof.Machine

/-! ## Updates of `State` -/

/-! ### `complete` -/

@[simp] theorem complete_ie (s : State) : (complete s).ie = s.ie := rfl
@[simp] theorem complete_cmd (s : State) : (complete s).cmd = s.cmd := rfl
@[simp] theorem complete_status (s : State) : (complete s).status = s.status.completed := rfl
@[simp] theorem complete_errCode (s : State) : (complete s).errCode = s.errCode := rfl
@[simp] theorem complete_errInfo (s : State) : (complete s).errInfo = s.errInfo := rfl
@[simp] theorem complete_inLen (s : State) : (complete s).inLen = s.inLen := rfl
@[simp] theorem complete_expLen (s : State) : (complete s).expLen = s.expLen := rfl
@[simp] theorem complete_outLen (s : State) : (complete s).outLen = s.outLen := rfl
@[simp] theorem complete_bitCnt (s : State) : (complete s).bitCnt = s.bitCnt := rfl
@[simp] theorem complete_ibufSize (s : State) : (complete s).ibufSize = s.ibufSize := rfl
@[simp] theorem complete_obufSize (s : State) : (complete s).obufSize = s.obufSize := rfl
@[simp] theorem complete_freq (s : State) : (complete s).freq = s.freq := rfl
@[simp] theorem complete_node (s : State) : (complete s).node = s.node := rfl
@[simp] theorem complete_cb (s : State) : (complete s).cb = s.cb := rfl
@[simp] theorem complete_ibuf (s : State) : (complete s).ibuf = s.ibuf := rfl
@[simp] theorem complete_obuf (s : State) : (complete s).obuf = s.obuf := rfl
@[simp] theorem complete_ibufEpoch (s : State) : (complete s).ibufEpoch = s.ibufEpoch := rfl
@[simp] theorem complete_obufEpoch (s : State) : (complete s).obufEpoch = s.obufEpoch := rfl
@[simp] theorem complete_turns (s : State) : (complete s).turns = s.turns := rfl
@[simp] theorem complete_hostData (s : State) : (complete s).hostData = s.hostData := rfl

/-! ### `raise` -/

@[simp] theorem raise_ie (op : Byte) (e : ErrorKind) (info : Word) (s : State) : (raise op e info s).ie = s.ie := rfl
@[simp] theorem raise_cmd (op : Byte) (e : ErrorKind) (info : Word) (s : State) : (raise op e info s).cmd = s.cmd := rfl
@[simp] theorem raise_status (op : Byte) (e : ErrorKind) (info : Word) (s : State) : (raise op e info s).status = s.status.failed := rfl
@[simp] theorem raise_errCode (op : Byte) (e : ErrorKind) (info : Word) (s : State) : (raise op e info s).errCode = ⟨e, op⟩ := rfl
@[simp] theorem raise_errInfo (op : Byte) (e : ErrorKind) (info : Word) (s : State) : (raise op e info s).errInfo = info := rfl
@[simp] theorem raise_inLen (op : Byte) (e : ErrorKind) (info : Word) (s : State) : (raise op e info s).inLen = s.inLen := rfl
@[simp] theorem raise_expLen (op : Byte) (e : ErrorKind) (info : Word) (s : State) : (raise op e info s).expLen = s.expLen := rfl
@[simp] theorem raise_outLen (op : Byte) (e : ErrorKind) (info : Word) (s : State) : (raise op e info s).outLen = s.outLen := rfl
@[simp] theorem raise_bitCnt (op : Byte) (e : ErrorKind) (info : Word) (s : State) : (raise op e info s).bitCnt = s.bitCnt := rfl
@[simp] theorem raise_ibufSize (op : Byte) (e : ErrorKind) (info : Word) (s : State) : (raise op e info s).ibufSize = s.ibufSize := rfl
@[simp] theorem raise_obufSize (op : Byte) (e : ErrorKind) (info : Word) (s : State) : (raise op e info s).obufSize = s.obufSize := rfl
@[simp] theorem raise_freq (op : Byte) (e : ErrorKind) (info : Word) (s : State) : (raise op e info s).freq = s.freq := rfl
@[simp] theorem raise_node (op : Byte) (e : ErrorKind) (info : Word) (s : State) : (raise op e info s).node = s.node := rfl
@[simp] theorem raise_cb (op : Byte) (e : ErrorKind) (info : Word) (s : State) : (raise op e info s).cb = s.cb := rfl
@[simp] theorem raise_ibuf (op : Byte) (e : ErrorKind) (info : Word) (s : State) : (raise op e info s).ibuf = s.ibuf := rfl
@[simp] theorem raise_obuf (op : Byte) (e : ErrorKind) (info : Word) (s : State) : (raise op e info s).obuf = s.obuf := rfl
@[simp] theorem raise_ibufEpoch (op : Byte) (e : ErrorKind) (info : Word) (s : State) : (raise op e info s).ibufEpoch = s.ibufEpoch := rfl
@[simp] theorem raise_obufEpoch (op : Byte) (e : ErrorKind) (info : Word) (s : State) : (raise op e info s).obufEpoch = s.obufEpoch := rfl
@[simp] theorem raise_turns (op : Byte) (e : ErrorKind) (info : Word) (s : State) : (raise op e info s).turns = s.turns := rfl
@[simp] theorem raise_hostData (op : Byte) (e : ErrorKind) (info : Word) (s : State) : (raise op e info s).hostData = s.hostData := rfl

/-! ### `accept` -/

@[simp] theorem accept_ie (w : Word) (s : State) : (accept w s).ie = s.ie := rfl
@[simp] theorem accept_cmd (w : Word) (s : State) : (accept w s).cmd = w := rfl
@[simp] theorem accept_status (w : Word) (s : State) : (accept w s).status = s.status.accepted := rfl
@[simp] theorem accept_errCode (w : Word) (s : State) : (accept w s).errCode = ⟨.none, 0⟩ := rfl
@[simp] theorem accept_errInfo (w : Word) (s : State) : (accept w s).errInfo = 0 := rfl
@[simp] theorem accept_inLen (w : Word) (s : State) : (accept w s).inLen = s.inLen := rfl
@[simp] theorem accept_expLen (w : Word) (s : State) : (accept w s).expLen = s.expLen := rfl
@[simp] theorem accept_outLen (w : Word) (s : State) : (accept w s).outLen = if clearsResult w then 0 else s.outLen := rfl
@[simp] theorem accept_bitCnt (w : Word) (s : State) : (accept w s).bitCnt = if clearsResult w then 0 else s.bitCnt := rfl
@[simp] theorem accept_ibufSize (w : Word) (s : State) : (accept w s).ibufSize = s.ibufSize := rfl
@[simp] theorem accept_obufSize (w : Word) (s : State) : (accept w s).obufSize = s.obufSize := rfl
@[simp] theorem accept_freq (w : Word) (s : State) : (accept w s).freq = s.freq := rfl
@[simp] theorem accept_node (w : Word) (s : State) : (accept w s).node = s.node := rfl
@[simp] theorem accept_cb (w : Word) (s : State) : (accept w s).cb = s.cb := rfl
@[simp] theorem accept_ibuf (w : Word) (s : State) : (accept w s).ibuf = s.ibuf := rfl
@[simp] theorem accept_obuf (w : Word) (s : State) : (accept w s).obuf = s.obuf := rfl
@[simp] theorem accept_ibufEpoch (w : Word) (s : State) : (accept w s).ibufEpoch = s.ibufEpoch := rfl
@[simp] theorem accept_obufEpoch (w : Word) (s : State) : (accept w s).obufEpoch = s.obufEpoch := rfl
@[simp] theorem accept_turns (w : Word) (s : State) : (accept w s).turns = s.turns := rfl
@[simp] theorem accept_hostData (w : Word) (s : State) : (accept w s).hostData = s.hostData := rfl

/-! ### `powerReset` -/

@[simp] theorem powerReset_ie (s : State) : (powerReset s).ie = false := rfl
@[simp] theorem powerReset_cmd (s : State) : (powerReset s).cmd = 0 := rfl
@[simp] theorem powerReset_status (s : State) : (powerReset s).status = ⟨false, false, false, false, false, false, false⟩ := rfl
@[simp] theorem powerReset_errCode (s : State) : (powerReset s).errCode = ⟨.none, 0⟩ := rfl
@[simp] theorem powerReset_errInfo (s : State) : (powerReset s).errInfo = 0 := rfl
@[simp] theorem powerReset_inLen (s : State) : (powerReset s).inLen = 0 := rfl
@[simp] theorem powerReset_expLen (s : State) : (powerReset s).expLen = 0 := rfl
@[simp] theorem powerReset_outLen (s : State) : (powerReset s).outLen = 0 := rfl
@[simp] theorem powerReset_bitCnt (s : State) : (powerReset s).bitCnt = 0 := rfl
@[simp] theorem powerReset_ibufSize (s : State) : (powerReset s).ibufSize = s.ibufSize := rfl
@[simp] theorem powerReset_obufSize (s : State) : (powerReset s).obufSize = s.obufSize := rfl
@[simp] theorem powerReset_freq (s : State) : (powerReset s).freq = Vector.replicate 256 0 := rfl
@[simp] theorem powerReset_node (s : State) : (powerReset s).node = Vector.replicate 511 ⟨0, 0, 0⟩ := rfl
@[simp] theorem powerReset_cb (s : State) : (powerReset s).cb = Vector.replicate 256 ⟨0, 0⟩ := rfl
@[simp] theorem powerReset_ibuf (s : State) : (powerReset s).ibuf = [] := rfl
@[simp] theorem powerReset_obuf (s : State) : (powerReset s).obuf = [] := rfl
@[simp] theorem powerReset_ibufEpoch (s : State) : (powerReset s).ibufEpoch = s.ibufEpoch + 1 := rfl
@[simp] theorem powerReset_obufEpoch (s : State) : (powerReset s).obufEpoch = s.obufEpoch + 1 := rfl
@[simp] theorem powerReset_turns (s : State) : (powerReset s).turns = s.turns := rfl
@[simp] theorem powerReset_hostData (s : State) : (powerReset s).hostData = .nothing := rfl

/-! ### `softReset` -/

@[simp] theorem softReset_ie (s : State) : (softReset s).ie = false := rfl
@[simp] theorem softReset_cmd (s : State) : (softReset s).cmd = 0 := rfl
@[simp] theorem softReset_status (s : State) : (softReset s).status = ⟨false, false, false, false, false, false, false⟩ := rfl
@[simp] theorem softReset_errCode (s : State) : (softReset s).errCode = ⟨.none, 0⟩ := rfl
@[simp] theorem softReset_errInfo (s : State) : (softReset s).errInfo = 0 := rfl
@[simp] theorem softReset_inLen (s : State) : (softReset s).inLen = 0 := rfl
@[simp] theorem softReset_expLen (s : State) : (softReset s).expLen = 0 := rfl
@[simp] theorem softReset_outLen (s : State) : (softReset s).outLen = 0 := rfl
@[simp] theorem softReset_bitCnt (s : State) : (softReset s).bitCnt = 0 := rfl
@[simp] theorem softReset_ibufSize (s : State) : (softReset s).ibufSize = s.ibufSize := rfl
@[simp] theorem softReset_obufSize (s : State) : (softReset s).obufSize = s.obufSize := rfl
@[simp] theorem softReset_freq (s : State) : (softReset s).freq = Vector.replicate 256 0 := rfl
@[simp] theorem softReset_node (s : State) : (softReset s).node = Vector.replicate 511 ⟨0, 0, 0⟩ := rfl
@[simp] theorem softReset_cb (s : State) : (softReset s).cb = Vector.replicate 256 ⟨0, 0⟩ := rfl
@[simp] theorem softReset_ibuf (s : State) : (softReset s).ibuf = s.ibuf := rfl
@[simp] theorem softReset_obuf (s : State) : (softReset s).obuf = if s.status.busy then [] else s.obuf := rfl
@[simp] theorem softReset_ibufEpoch (s : State) : (softReset s).ibufEpoch = s.ibufEpoch := rfl
@[simp] theorem softReset_obufEpoch (s : State) : (softReset s).obufEpoch = if s.status.busy then s.obufEpoch + 1 else s.obufEpoch := rfl
@[simp] theorem softReset_turns (s : State) : (softReset s).turns = s.turns := rfl
@[simp] theorem softReset_hostData (s : State) : (softReset s).hostData = .nothing := rfl

/-! ### `State.writeFreq` -/

@[simp] theorem State.writeFreq_ie (k : Byte) (v : Word) (s : State) : (s.writeFreq k v).ie = s.ie := rfl
@[simp] theorem State.writeFreq_cmd (k : Byte) (v : Word) (s : State) : (s.writeFreq k v).cmd = s.cmd := rfl
@[simp] theorem State.writeFreq_status (k : Byte) (v : Word) (s : State) : (s.writeFreq k v).status = s.status.freqChanged := rfl
@[simp] theorem State.writeFreq_errCode (k : Byte) (v : Word) (s : State) : (s.writeFreq k v).errCode = s.errCode := rfl
@[simp] theorem State.writeFreq_errInfo (k : Byte) (v : Word) (s : State) : (s.writeFreq k v).errInfo = s.errInfo := rfl
@[simp] theorem State.writeFreq_inLen (k : Byte) (v : Word) (s : State) : (s.writeFreq k v).inLen = s.inLen := rfl
@[simp] theorem State.writeFreq_expLen (k : Byte) (v : Word) (s : State) : (s.writeFreq k v).expLen = s.expLen := rfl
@[simp] theorem State.writeFreq_outLen (k : Byte) (v : Word) (s : State) : (s.writeFreq k v).outLen = s.outLen := rfl
@[simp] theorem State.writeFreq_bitCnt (k : Byte) (v : Word) (s : State) : (s.writeFreq k v).bitCnt = s.bitCnt := rfl
@[simp] theorem State.writeFreq_ibufSize (k : Byte) (v : Word) (s : State) : (s.writeFreq k v).ibufSize = s.ibufSize := rfl
@[simp] theorem State.writeFreq_obufSize (k : Byte) (v : Word) (s : State) : (s.writeFreq k v).obufSize = s.obufSize := rfl
@[simp] theorem State.writeFreq_freq (k : Byte) (v : Word) (s : State) : (s.writeFreq k v).freq = setSymbol s.freq k v := rfl
@[simp] theorem State.writeFreq_node (k : Byte) (v : Word) (s : State) : (s.writeFreq k v).node = s.node := rfl
@[simp] theorem State.writeFreq_cb (k : Byte) (v : Word) (s : State) : (s.writeFreq k v).cb = s.cb := rfl
@[simp] theorem State.writeFreq_ibuf (k : Byte) (v : Word) (s : State) : (s.writeFreq k v).ibuf = s.ibuf := rfl
@[simp] theorem State.writeFreq_obuf (k : Byte) (v : Word) (s : State) : (s.writeFreq k v).obuf = s.obuf := rfl
@[simp] theorem State.writeFreq_ibufEpoch (k : Byte) (v : Word) (s : State) : (s.writeFreq k v).ibufEpoch = s.ibufEpoch := rfl
@[simp] theorem State.writeFreq_obufEpoch (k : Byte) (v : Word) (s : State) : (s.writeFreq k v).obufEpoch = s.obufEpoch := rfl
@[simp] theorem State.writeFreq_turns (k : Byte) (v : Word) (s : State) : (s.writeFreq k v).turns = s.turns := rfl
@[simp] theorem State.writeFreq_hostData (k : Byte) (v : Word) (s : State) : (s.writeFreq k v).hostData = s.hostData := rfl

/-! ### `packHeader` -/

@[simp] theorem packHeader_ie (s : State) : (packHeader s).ie = s.ie := rfl
@[simp] theorem packHeader_cmd (s : State) : (packHeader s).cmd = s.cmd := rfl
@[simp] theorem packHeader_status (s : State) : (packHeader s).status = s.status.headerWritten s.freq := rfl
@[simp] theorem packHeader_errCode (s : State) : (packHeader s).errCode = s.errCode := rfl
@[simp] theorem packHeader_errInfo (s : State) : (packHeader s).errInfo = s.errInfo := rfl
@[simp] theorem packHeader_inLen (s : State) : (packHeader s).inLen = s.inLen := rfl
@[simp] theorem packHeader_expLen (s : State) : (packHeader s).expLen = s.expLen := rfl
@[simp] theorem packHeader_outLen (s : State) : (packHeader s).outLen = s.outLen := rfl
@[simp] theorem packHeader_bitCnt (s : State) : (packHeader s).bitCnt = s.bitCnt := rfl
@[simp] theorem packHeader_ibufSize (s : State) : (packHeader s).ibufSize = s.ibufSize := rfl
@[simp] theorem packHeader_obufSize (s : State) : (packHeader s).obufSize = s.obufSize := rfl
@[simp] theorem packHeader_freq (s : State) : (packHeader s).freq = s.freq := rfl
@[simp] theorem packHeader_node (s : State) : (packHeader s).node = s.node := rfl
@[simp] theorem packHeader_cb (s : State) : (packHeader s).cb = s.cb := rfl
@[simp] theorem packHeader_ibuf (s : State) : (packHeader s).ibuf = s.ibuf := rfl
@[simp] theorem packHeader_obuf (s : State) : (packHeader s).obuf = s.obuf.writeFrom 0 (headerBytes s.inLen s.freq) := rfl
@[simp] theorem packHeader_ibufEpoch (s : State) : (packHeader s).ibufEpoch = s.ibufEpoch := rfl
@[simp] theorem packHeader_obufEpoch (s : State) : (packHeader s).obufEpoch = s.obufEpoch := rfl
@[simp] theorem packHeader_turns (s : State) : (packHeader s).turns = s.turns := rfl
@[simp] theorem packHeader_hostData (s : State) : (packHeader s).hostData = s.hostData := rfl

/-! ## Updates of `Status` -/

/-! ### `Status.accepted` -/

@[simp] theorem Status.accepted_busy (t : Status) : (t.accepted).busy = true := rfl
@[simp] theorem Status.accepted_done (t : Status) : (t.accepted).done = false := rfl
@[simp] theorem Status.accepted_err (t : Status) : (t.accepted).err = false := rfl
@[simp] theorem Status.accepted_ovr (t : Status) : (t.accepted).ovr = t.ovr := rfl
@[simp] theorem Status.accepted_trunc (t : Status) : (t.accepted).trunc = t.trunc := rfl
@[simp] theorem Status.accepted_treeValid (t : Status) : (t.accepted).treeValid = t.treeValid := rfl
@[simp] theorem Status.accepted_cbValid (t : Status) : (t.accepted).cbValid = t.cbValid := rfl

/-! ### `Status.completed` -/

@[simp] theorem Status.completed_busy (t : Status) : (t.completed).busy = false := rfl
@[simp] theorem Status.completed_done (t : Status) : (t.completed).done = true := rfl
@[simp] theorem Status.completed_err (t : Status) : (t.completed).err = t.err := rfl
@[simp] theorem Status.completed_ovr (t : Status) : (t.completed).ovr = t.ovr := rfl
@[simp] theorem Status.completed_trunc (t : Status) : (t.completed).trunc = t.trunc := rfl
@[simp] theorem Status.completed_treeValid (t : Status) : (t.completed).treeValid = t.treeValid := rfl
@[simp] theorem Status.completed_cbValid (t : Status) : (t.completed).cbValid = t.cbValid := rfl

/-! ### `Status.failed` -/

@[simp] theorem Status.failed_busy (t : Status) : (t.failed).busy = false := rfl
@[simp] theorem Status.failed_done (t : Status) : (t.failed).done = true := rfl
@[simp] theorem Status.failed_err (t : Status) : (t.failed).err = true := rfl
@[simp] theorem Status.failed_ovr (t : Status) : (t.failed).ovr = t.ovr := rfl
@[simp] theorem Status.failed_trunc (t : Status) : (t.failed).trunc = t.trunc := rfl
@[simp] theorem Status.failed_treeValid (t : Status) : (t.failed).treeValid = t.treeValid := rfl
@[simp] theorem Status.failed_cbValid (t : Status) : (t.failed).cbValid = t.cbValid := rfl

/-! ### `Status.freqChanged` -/

@[simp] theorem Status.freqChanged_busy (t : Status) : (t.freqChanged).busy = t.busy := rfl
@[simp] theorem Status.freqChanged_done (t : Status) : (t.freqChanged).done = t.done := rfl
@[simp] theorem Status.freqChanged_err (t : Status) : (t.freqChanged).err = t.err := rfl
@[simp] theorem Status.freqChanged_ovr (t : Status) : (t.freqChanged).ovr = t.ovr := rfl
@[simp] theorem Status.freqChanged_trunc (t : Status) : (t.freqChanged).trunc = t.trunc := rfl
@[simp] theorem Status.freqChanged_treeValid (t : Status) : (t.freqChanged).treeValid = false := rfl
@[simp] theorem Status.freqChanged_cbValid (t : Status) : (t.freqChanged).cbValid = false := rfl

/-! ### `Status.treeBuilt` -/

@[simp] theorem Status.treeBuilt_busy (t : Status) : (t.treeBuilt).busy = t.busy := rfl
@[simp] theorem Status.treeBuilt_done (t : Status) : (t.treeBuilt).done = t.done := rfl
@[simp] theorem Status.treeBuilt_err (t : Status) : (t.treeBuilt).err = t.err := rfl
@[simp] theorem Status.treeBuilt_ovr (t : Status) : (t.treeBuilt).ovr = t.ovr := rfl
@[simp] theorem Status.treeBuilt_trunc (t : Status) : (t.treeBuilt).trunc = t.trunc := rfl
@[simp] theorem Status.treeBuilt_treeValid (t : Status) : (t.treeBuilt).treeValid = true := rfl
@[simp] theorem Status.treeBuilt_cbValid (t : Status) : (t.treeBuilt).cbValid = false := rfl

/-! ### `Status.bookDerived` -/

@[simp] theorem Status.bookDerived_busy (t : Status) : (t.bookDerived).busy = t.busy := rfl
@[simp] theorem Status.bookDerived_done (t : Status) : (t.bookDerived).done = t.done := rfl
@[simp] theorem Status.bookDerived_err (t : Status) : (t.bookDerived).err = t.err := rfl
@[simp] theorem Status.bookDerived_ovr (t : Status) : (t.bookDerived).ovr = t.ovr := rfl
@[simp] theorem Status.bookDerived_trunc (t : Status) : (t.bookDerived).trunc = t.trunc := rfl
@[simp] theorem Status.bookDerived_treeValid (t : Status) : (t.bookDerived).treeValid = t.treeValid := rfl
@[simp] theorem Status.bookDerived_cbValid (t : Status) : (t.bookDerived).cbValid = true := rfl

/-! ### `Status.markOverrun` -/

@[simp] theorem Status.markOverrun_busy (t : Status) : (t.markOverrun).busy = t.busy := rfl
@[simp] theorem Status.markOverrun_done (t : Status) : (t.markOverrun).done = t.done := rfl
@[simp] theorem Status.markOverrun_err (t : Status) : (t.markOverrun).err = t.err := rfl
@[simp] theorem Status.markOverrun_ovr (t : Status) : (t.markOverrun).ovr = true := rfl
@[simp] theorem Status.markOverrun_trunc (t : Status) : (t.markOverrun).trunc = t.trunc := rfl
@[simp] theorem Status.markOverrun_treeValid (t : Status) : (t.markOverrun).treeValid = t.treeValid := rfl
@[simp] theorem Status.markOverrun_cbValid (t : Status) : (t.markOverrun).cbValid = t.cbValid := rfl

/-! ### `Status.headerWritten` -/

@[simp] theorem Status.headerWritten_busy (t : Status) (f : Vector Word 256) : (t.headerWritten f).busy = t.busy := rfl
@[simp] theorem Status.headerWritten_done (t : Status) (f : Vector Word 256) : (t.headerWritten f).done = t.done := rfl
@[simp] theorem Status.headerWritten_err (t : Status) (f : Vector Word 256) : (t.headerWritten f).err = t.err := rfl
@[simp] theorem Status.headerWritten_ovr (t : Status) (f : Vector Word 256) : (t.headerWritten f).ovr = t.ovr := rfl
@[simp] theorem Status.headerWritten_trunc (t : Status) (f : Vector Word 256) : (t.headerWritten f).trunc = (t.trunc || losesCount f) := rfl
@[simp] theorem Status.headerWritten_treeValid (t : Status) (f : Vector Word 256) : (t.headerWritten f).treeValid = t.treeValid := rfl
@[simp] theorem Status.headerWritten_cbValid (t : Status) (f : Vector Word 256) : (t.headerWritten f).cbValid = t.cbValid := rfl

/-! ### `Status.clearWritten` -/

@[simp] theorem Status.clearWritten_busy (t : Status) (v : Word) : (t.clearWritten v).busy = t.busy := rfl
@[simp] theorem Status.clearWritten_done (t : Status) (v : Word) : (t.clearWritten v).done = (t.done && !v.getLsbD 1) := rfl
@[simp] theorem Status.clearWritten_err (t : Status) (v : Word) : (t.clearWritten v).err = (t.err && !v.getLsbD 2) := rfl
@[simp] theorem Status.clearWritten_ovr (t : Status) (v : Word) : (t.clearWritten v).ovr = (t.ovr && !v.getLsbD 3) := rfl
@[simp] theorem Status.clearWritten_trunc (t : Status) (v : Word) : (t.clearWritten v).trunc = (t.trunc && !v.getLsbD 4) := rfl
@[simp] theorem Status.clearWritten_treeValid (t : Status) (v : Word) : (t.clearWritten v).treeValid = t.treeValid := rfl
@[simp] theorem Status.clearWritten_cbValid (t : Status) (v : Word) : (t.clearWritten v).cbValid = t.cbValid := rfl

end Sys2Proof.Machine
end

