-- ==== Sys2Proof/Laws/Runs.lean ====
section
/-! SUPPORT. Everything a command's pseudocode can come to, said once for each; that the engine and the step always
answer a next state; and the state of the block a running command never touches. -/

namespace Sys2Proof.Machine

/-- The state a command's pseudocode ends in, before completion or the error record. -/
def Run.state : Run → State
  | .finished s => s
  | .raised _ _ _ s => s

@[simp] theorem Run.state_finished (s : State) : (Run.finished s).state = s := rfl
@[simp] theorem Run.state_raised (op : Byte) (e : ErrorKind) (info : Word) (s : State) :
    (Run.raised op e info s).state = s := rfl
@[simp] theorem Run.conclude_finished (s : State) : (Run.finished s).conclude = complete s := rfl
@[simp] theorem Run.conclude_raised (op : Byte) (e : ErrorKind) (info : Word) (s : State) :
    (Run.raised op e info s).conclude = raise op e info s := rfl
@[simp] theorem Run.finished_andThen (s : State) (f : State → Run) : (Run.finished s).andThen f = f s := rfl
@[simp] theorem Run.raised_andThen (op : Byte) (e : ErrorKind) (info : Word) (s : State) (f : State → Run) :
    (Run.raised op e info s).andThen f = .raised op e info s := rfl

/-! ## Each command's pseudocode, case by case -/

theorem countRun_cases (s : State) :
    (s.ibufSize < s.inLen ∧ countRun s = .raised (Instr.opcode .count) .inRange 0 s) ∨
    (¬ s.ibufSize < s.inLen ∧
      countRun s = .finished { s with freq := countSymbols s.input, status := s.status.freqChanged }) := by
  unfold countRun; split <;> simp [*]

theorem deriveRun_cases (s : State) :
    (s.status.treeValid = false ∧ deriveRun s = .raised (Instr.opcode .derive) .sequence 0 s) ∨
    (s.status.treeValid = true ∧
      deriveRun s = .finished { s with cb := deriveBook s.node s.cb, status := s.status.bookDerived }) := by
  unfold deriveRun; split <;> simp [*]

theorem parseRun_cases (s : State) :
    (s.ibufSize < s.inLen ∧ parseRun s = .raised (Instr.opcode .parse) .inRange 0 s) ∨
    (¬ s.ibufSize < s.inLen ∧ s.inLen.toNat < hdrLen ∧
      parseRun s = .raised (Instr.opcode .parse) .malformedShort 0 s) ∨
    (¬ s.ibufSize < s.inLen ∧ hdrLen ≤ s.inLen.toNat ∧
      parseRun s =
        .finished { s with expLen := s.headerLength, freq := s.headerFreq, status := s.status.freqChanged }) := by
  unfold parseRun
  split
  · simp [*]
  · split
    · simp [*]
    · simp [*]; omega

theorem packPayload_cases (s : State) :
    (∃ i t, packBits s.obufSize.toNat (codeBits s.cb s.input) ⟨0, 0, s.obuf⟩ = .overflow i t ∧
      packPayload s =
        .raised (Instr.opcode .pack) .obufOverflow (BitVec.ofNat 32 i) { s with obuf := t.obuf }) ∨
    (∃ t, packBits s.obufSize.toNat (codeBits s.cb s.input) ⟨0, 0, s.obuf⟩ = .all t ∧
      packPayload s =
        .finished
          { s with
            obuf := t.flush
            outLen := BitVec.ofNat 32 (hdrLen + payloadBytes t.pos)
            bitCnt := BitVec.ofNat 64 t.pos }) := by
  unfold packPayload
  cases h : packBits s.obufSize.toNat (codeBits s.cb s.input) ⟨0, 0, s.obuf⟩ with
  | overflow i t => exact .inl ⟨i, t, rfl, rfl⟩
  | all t => exact .inr ⟨t, rfl, rfl⟩

theorem packRun_cases (s : State) :
    (s.status.cbValid = false ∧ packRun s = .raised (Instr.opcode .pack) .sequence 0 s) ∨
    (s.status.cbValid = true ∧ s.ibufSize < s.inLen ∧ packRun s = .raised (Instr.opcode .pack) .inRange 0 s) ∨
    (s.status.cbValid = true ∧ ¬ s.ibufSize < s.inLen ∧ packRun s = packPayload (packHeader s)) := by
  unfold packRun
  cases s.status.cbValid
  · simp
  · by_cases h : s.ibufSize < s.inLen <;> simp [h]

theorem unpackPayload_cases (s : State) :
    ((unpackBits s.node s.expLen.toNat s.payload s.obuf).emitted < s.expLen.toNat ∧
      unpackPayload s =
        .raised (Instr.opcode .unpack) .malformedTrunc
          (BitVec.ofNat 32 (unpackBits s.node s.expLen.toNat s.payload s.obuf).emitted)
          { s with obuf := (unpackBits s.node s.expLen.toNat s.payload s.obuf).obuf }) ∨
    (s.expLen.toNat ≤ (unpackBits s.node s.expLen.toNat s.payload s.obuf).emitted ∧
      unpackPayload s =
        .finished
          { s with
            obuf := (unpackBits s.node s.expLen.toNat s.payload s.obuf).obuf
            outLen := s.expLen
            bitCnt := BitVec.ofNat 64 (unpackBits s.node s.expLen.toNat s.payload s.obuf).last }) := by
  by_cases h : (unpackBits s.node s.expLen.toNat s.payload s.obuf).emitted < s.expLen.toNat
  · exact .inl ⟨h, by simp [unpackPayload, h]⟩
  · exact .inr ⟨by omega, by simp [unpackPayload, h]⟩

theorem unpackRun_cases (s : State) :
    (s.status.treeValid = false ∧ unpackRun s = .raised (Instr.opcode .unpack) .sequence 0 s) ∨
    (s.status.treeValid = true ∧ s.ibufSize < s.inLen ∧
      unpackRun s = .raised (Instr.opcode .unpack) .inRange 0 s) ∨
    (s.status.treeValid = true ∧ ¬ s.ibufSize < s.inLen ∧ s.inLen.toNat < hdrLen ∧
      unpackRun s = .raised (Instr.opcode .unpack) .malformedShort 0 s) ∨
    (s.status.treeValid = true ∧ ¬ s.ibufSize < s.inLen ∧ hdrLen ≤ s.inLen.toNat ∧ s.obufSize < s.expLen ∧
      unpackRun s = .raised (Instr.opcode .unpack) .obufOverflow 0 s) ∨
    (s.status.treeValid = true ∧ ¬ s.ibufSize < s.inLen ∧ hdrLen ≤ s.inLen.toNat ∧ ¬ s.obufSize < s.expLen ∧
      unpackRun s = unpackPayload s) := by
  unfold unpackRun
  cases s.status.treeValid
  · simp
  · by_cases h1 : s.ibufSize < s.inLen
    · simp [h1]
    · by_cases h2 : s.inLen.toNat < hdrLen
      · simp [h1, h2]
      · by_cases h3 : s.obufSize < s.expLen <;> simp [h1, h2, h3] <;> omega

/-! ## The engine and the step always answer a next state -/

/-- The pseudocode of each command, as one function (40_command_protocol.md R162). -/
def commandRun : Instr → State → Run
  | .nop => Run.finished
  | .count => countRun
  | .build => buildRun
  | .derive => deriveRun
  | .pack => packRun
  | .parse => parseRun
  | .unpack => unpackRun
  | .compress => compressRun
  | .decompress => decompressRun

/-- What every command does: its pseudocode, then R165 or R166. -/
theorem exec_eq (i : Instr) (s : State) : exec i s = .next (commandRun i s).conclude := by
  cases i <;> rfl

/-- The state after the engine's turn. -/
def afterEngine (s : State) : State :=
  if s.status.busy then
    match decode s.cmd with
    | .legal i => (commandRun i s).conclude
    | .illegal _ => raiseIllegal s
  else s

theorem engineTurn_eq (s : State) : engineTurn s = .next (afterEngine s) := by
  unfold engineTurn afterEngine
  split
  · cases decode s.cmd <;> simp [exec_eq]
  · rfl

/-- The state after one step. -/
def afterStep (s : State) : State :=
  match s.turns with
  | [] => afterEngine s
  | .engine :: rest => afterEngine { s with turns := rest }
  | .host a :: rest => hostAccess a { s with turns := rest }

theorem step_eq (s : State) : step s = .next (afterStep s) := by
  unfold step afterStep
  split <;> simp [*, engineTurn_eq]

/-- Everything a step can do. -/
theorem step_cases {s t : State} (h : step s = .next t) :
    (∃ a rest, s.turns = .host a :: rest ∧ t = hostAccess a { s with turns := rest }) ∨
    ((∀ a rest, s.turns ≠ .host a :: rest) ∧ s.status.busy = false ∧ t = { s with turns := s.turns.tail }) ∨
    ((∀ a rest, s.turns ≠ .host a :: rest) ∧ s.status.busy = true ∧
      (∃ i, decode s.cmd = .legal i ∧ t = (commandRun i { s with turns := s.turns.tail }).conclude)) ∨
    ((∀ a rest, s.turns ≠ .host a :: rest) ∧ s.status.busy = true ∧
      (∃ w, decode s.cmd = .illegal w ∧ t = raiseIllegal { s with turns := s.turns.tail })) := by
  rw [step_eq] at h
  injection h with h
  subst h
  have aux : ∀ u : State, (u.status.busy = false ∧ afterEngine u = u) ∨
      (u.status.busy = true ∧ ∃ i, decode u.cmd = .legal i ∧ afterEngine u = (commandRun i u).conclude) ∨
      (u.status.busy = true ∧ ∃ w, decode u.cmd = .illegal w ∧ afterEngine u = raiseIllegal u) := by
    intro u
    unfold afterEngine
    cases hb : u.status.busy
    · simp
    · cases hd : decode u.cmd <;> simp
  cases ht : s.turns with
  | nil =>
    have e : { s with turns := ([] : List Turn).tail } = s := by rw [List.tail_nil, ← ht]
    have ha : afterStep s = afterEngine s := by unfold afterStep; rw [ht]
    rw [ha, e]
    refine .inr ?_
    rcases aux s with ⟨h1, h2⟩ | ⟨h1, h2⟩ | ⟨h1, h2⟩
    · exact .inl ⟨by simp, h1, h2⟩
    · exact .inr (.inl ⟨by simp, h1, h2⟩)
    · exact .inr (.inr ⟨by simp, h1, h2⟩)
  | cons x rest =>
    cases x with
    | host a => exact .inl ⟨a, rest, rfl, by unfold afterStep; rw [ht]⟩
    | engine =>
      have ha : afterStep s = afterEngine { s with turns := rest } := by unfold afterStep; rw [ht]
      rw [ha, List.tail_cons]
      refine .inr ?_
      rcases aux { s with turns := rest } with ⟨h1, h2⟩ | ⟨h1, h2⟩ | ⟨h1, h2⟩
      · exact .inl ⟨by simp, h1, h2⟩
      · exact .inr (.inl ⟨by simp, h1, h2⟩)
      · exact .inr (.inr ⟨by simp, h1, h2⟩)

/-! ## What a command does to OUT_LEN and BITCNT -/

/-- The two states agree on OUT_LEN and BITCNT. -/
structure SameResult (s t : State) : Prop where
  outLen : t.outLen = s.outLen
  bitCnt : t.bitCnt = s.bitCnt

theorem SameResult.rfl {s : State} : SameResult s s := ⟨Eq.refl _, Eq.refl _⟩

theorem countRun_sameResult (s : State) : SameResult s (countRun s).state := by
  rcases countRun_cases s with ⟨-, h⟩ | ⟨-, h⟩ <;> rw [h] <;> exact ⟨rfl, rfl⟩

theorem deriveRun_sameResult (s : State) : SameResult s (deriveRun s).state := by
  rcases deriveRun_cases s with ⟨-, h⟩ | ⟨-, h⟩ <;> rw [h] <;> exact ⟨rfl, rfl⟩

theorem parseRun_sameResult (s : State) : SameResult s (parseRun s).state := by
  rcases parseRun_cases s with ⟨-, h⟩ | ⟨-, -, h⟩ | ⟨-, -, h⟩ <;> rw [h] <;> exact ⟨rfl, rfl⟩

/-- A command that is no output command leaves OUT_LEN and BITCNT, however it ends (R50, R51). -/
theorem commandRun_sameResult {i : Instr} (h : Instr.isOutput i = false) (s : State) :
    SameResult s (commandRun i s).state := by
  cases i <;> first | exact .rfl | exact ⟨rfl, rfl⟩ | exact countRun_sameResult s | exact deriveRun_sameResult s |
    exact parseRun_sameResult s | cases h

/-- What PACK raises leaves OUT_LEN and BITCNT. -/
theorem packRun_raised_sameResult {s u : State} {op : Byte} {e : ErrorKind} {info : Word}
    (h : packRun s = .raised op e info u) : SameResult s u := by
  rcases packRun_cases s with ⟨-, k⟩ | ⟨-, -, k⟩ | ⟨-, -, k⟩
  · rw [k] at h; injection h with _ _ _ h; subst h; exact .rfl
  · rw [k] at h; injection h with _ _ _ h; subst h; exact .rfl
  · rcases packPayload_cases (packHeader s) with ⟨i, t, -, m⟩ | ⟨t, -, m⟩
    · rw [k, m] at h; injection h with _ _ _ h; subst h; exact ⟨rfl, rfl⟩
    · rw [k, m] at h; cases h

/-- What UNPACK raises leaves OUT_LEN and BITCNT. -/
theorem unpackRun_raised_sameResult {s u : State} {op : Byte} {e : ErrorKind} {info : Word}
    (h : unpackRun s = .raised op e info u) : SameResult s u := by
  rcases unpackRun_cases s with ⟨-, k⟩ | ⟨-, -, k⟩ | ⟨-, -, -, k⟩ | ⟨-, -, -, -, k⟩ | ⟨-, -, -, -, k⟩
  · rw [k] at h; injection h with _ _ _ h; subst h; exact .rfl
  · rw [k] at h; injection h with _ _ _ h; subst h; exact .rfl
  · rw [k] at h; injection h with _ _ _ h; subst h; exact .rfl
  · rw [k] at h; injection h with _ _ _ h; subst h; exact .rfl
  · rcases unpackPayload_cases s with ⟨-, m⟩ | ⟨-, m⟩
    · rw [k, m] at h; injection h with _ _ _ h; subst h; exact ⟨rfl, rfl⟩
    · rw [k, m] at h; cases h

/-! ## What a running command never touches -/

/-- The two states agree on everything a command's pseudocode leaves alone: CTRL, CMD, IN_LEN, the capacities, IBUF, the
turns and the last answer, the error record, and BUSY, DONE, ERR and OVR. -/
structure SameHost (s t : State) : Prop where
  ie : t.ie = s.ie
  cmd : t.cmd = s.cmd
  inLen : t.inLen = s.inLen
  ibufSize : t.ibufSize = s.ibufSize
  obufSize : t.obufSize = s.obufSize
  ibuf : t.ibuf = s.ibuf
  ibufEpoch : t.ibufEpoch = s.ibufEpoch
  obufEpoch : t.obufEpoch = s.obufEpoch
  turns : t.turns = s.turns
  hostData : t.hostData = s.hostData
  errCode : t.errCode = s.errCode
  errInfo : t.errInfo = s.errInfo
  busy : t.status.busy = s.status.busy
  done : t.status.done = s.status.done
  err : t.status.err = s.status.err
  ovr : t.status.ovr = s.status.ovr

theorem SameHost.rfl {s : State} : SameHost s s :=
  ⟨Eq.refl _, Eq.refl _, Eq.refl _, Eq.refl _, Eq.refl _, Eq.refl _, Eq.refl _, Eq.refl _, Eq.refl _, Eq.refl _,
    Eq.refl _, Eq.refl _, Eq.refl _, Eq.refl _, Eq.refl _, Eq.refl _⟩

theorem SameHost.trans {s t u : State} (h : SameHost s t) (k : SameHost t u) : SameHost s u :=
  ⟨k.1.trans h.1, k.2.trans h.2, k.3.trans h.3, k.4.trans h.4, k.5.trans h.5, k.6.trans h.6, k.7.trans h.7,
    k.8.trans h.8, k.9.trans h.9, k.10.trans h.10, k.11.trans h.11, k.12.trans h.12, k.13.trans h.13,
    k.14.trans h.14, k.15.trans h.15, k.16.trans h.16⟩

theorem countRun_sameHost (s : State) : SameHost s (countRun s).state := by
  rcases countRun_cases s with ⟨-, h⟩ | ⟨-, h⟩ <;> rw [h] <;> constructor <;> rfl

theorem buildRun_sameHost (s : State) : SameHost s (buildRun s).state := by constructor <;> rfl

theorem deriveRun_sameHost (s : State) : SameHost s (deriveRun s).state := by
  rcases deriveRun_cases s with ⟨-, h⟩ | ⟨-, h⟩ <;> rw [h] <;> constructor <;> rfl

theorem parseRun_sameHost (s : State) : SameHost s (parseRun s).state := by
  rcases parseRun_cases s with ⟨-, h⟩ | ⟨-, -, h⟩ | ⟨-, -, h⟩ <;> rw [h] <;> constructor <;> rfl

theorem packHeader_sameHost (s : State) : SameHost s (packHeader s) := by constructor <;> rfl

theorem packPayload_sameHost (s : State) : SameHost s (packPayload s).state := by
  rcases packPayload_cases s with ⟨i, t, -, h⟩ | ⟨t, -, h⟩ <;> rw [h] <;> constructor <;> rfl

theorem packRun_sameHost (s : State) : SameHost s (packRun s).state := by
  rcases packRun_cases s with ⟨-, h⟩ | ⟨-, -, h⟩ | ⟨-, -, h⟩ <;> rw [h]
  · exact .rfl
  · exact .rfl
  · exact (packHeader_sameHost s).trans (packPayload_sameHost _)

theorem unpackPayload_sameHost (s : State) : SameHost s (unpackPayload s).state := by
  rcases unpackPayload_cases s with ⟨-, h⟩ | ⟨-, h⟩
  · rw [h, Run.state_raised]; constructor <;> simp only
  · rw [h, Run.state_finished]; constructor <;> simp only

theorem unpackRun_sameHost (s : State) : SameHost s (unpackRun s).state := by
  rcases unpackRun_cases s with ⟨-, h⟩ | ⟨-, -, h⟩ | ⟨-, -, -, h⟩ | ⟨-, -, -, -, h⟩ | ⟨-, -, -, -, h⟩ <;> rw [h]
  · exact .rfl
  · exact .rfl
  · exact .rfl
  · exact .rfl
  · exact unpackPayload_sameHost s

theorem andThen_sameHost {s : State} {r : Run} {f : State → Run} (h : SameHost s r.state)
    (k : ∀ u, SameHost u (f u).state) : SameHost s (r.andThen f).state := by
  cases r with
  | finished t => exact h.trans (k t)
  | raised op e info t => exact h

/-- No command touches what `SameHost` lists, until it ends. -/
theorem commandRun_sameHost (i : Instr) (s : State) : SameHost s (commandRun i s).state := by
  cases i with
  | nop => exact .rfl
  | count => exact countRun_sameHost s
  | build => exact buildRun_sameHost s
  | derive => exact deriveRun_sameHost s
  | pack => exact packRun_sameHost s
  | parse => exact parseRun_sameHost s
  | unpack => exact unpackRun_sameHost s
  | compress =>
    exact andThen_sameHost (andThen_sameHost (andThen_sameHost (countRun_sameHost s) buildRun_sameHost)
      deriveRun_sameHost) packRun_sameHost
  | decompress =>
    exact andThen_sameHost (andThen_sameHost (parseRun_sameHost s) buildRun_sameHost) unpackRun_sameHost

end Sys2Proof.Machine
end

