-- ==== Sys2Proof/Tests/Slice0.lean ====
section
/-! SUPPORT. The model's own tests.  Expected values are those of 95_test_vectors.md (the vector is named), or worked by
hand from the rule named.  The last part shows, for each statement with hypotheses, a state and operands that meet them. -/

namespace Sys2Proof.Tests

open Sys2Proof Sys2Proof.Machine Sys2Proof.Claims

set_option maxRecDepth 20000
set_option Elab.async false

/-! ## Helpers -/

/-- A value read from the next state of an outcome. -/
def after {α : Type} (o : Host.Outcome State Fault Refusal) (f : State → α) : Option α :=
  match o with
  | .next s => some (f s)
  | _ => none

/-- The reset state with a program before it. -/
def idle (p : List Turn) : State := State.reset.withProgram p

/-- The reset state with a word accepted and the engine to move. -/
def busyWith (w : Word) : State := { accept w State.reset with turns := [.engine] }

/-- The reset state with bytes written to IBUF from index 0 on, and IN_LEN. -/
def loaded (data : List Nat) (n : Nat) : State :=
  { State.reset with ibuf := data.zipIdx.map fun p => (p.2, BitVec.ofNat 8 p.1), inLen := BitVec.ofNat 32 n }

/-- The bytes of "abracadabra". -/
def abra : List Nat := [0x61, 0x62, 0x72, 0x61, 0x63, 0x61, 0x64, 0x61, 0x62, 0x72, 0x61]

/-- The nodes 506..510 of vector T-3, over a tree whose node 505 leads to leaf 0. -/
def abraTree : Vector Node 511 :=
  ((((Vector.replicate 511 ⟨0, 0, 0⟩).set 506 ⟨1, 505, 0x63⟩).set 507 ⟨2, 0x64, 506⟩).set 508 ⟨4, 0x62, 0x72⟩
    |>.set 509 ⟨6, 507, 508⟩).set 510 ⟨11, 0x61, 509⟩

/-- The five codes of vector K-2. -/
def abraBook : Vector Code 256 :=
  ((((Vector.replicate 256 ⟨0, 0⟩).set 0x61 ⟨1, 0⟩).set 0x62 ⟨3, 3⟩).set 0x72 ⟨3, 7⟩ |>.set 0x64 ⟨3, 1⟩).set 0x63 ⟨4, 0xD⟩

/-- The state after vector K-2 with the data in IBUF, FREQ not counted. -/
def abraPack : State :=
  { loaded abra 11 with
    node := abraTree, cb := abraBook, status := { State.reset.status with treeValid := true, cbValid := true } }

/-- A state in which UNPACK can run on the payload of vector P-3 (76 2D 76), the header bytes not written. -/
def abraUnpack (expLen : Word) : State :=
  { State.reset with
    ibuf := [(260, 0x76), (261, 0x2D), (262, 0x76)], inLen := 263, expLen := expLen, node := abraTree
    status := { State.reset.status with treeValid := true } }

/-! ## Well-formedness: each check refuses an ill-formed term -/

theorem test_wf_refuses_reserved_bits : CommandWord.reservedClear 0x00000101 = false := by decide
theorem test_wf_refuses_unassigned_opcode : CommandWord.opcodeAssigned 0x00000007 = false := by decide
theorem test_wf_refuses_illegal_words : [0x80000008#32, 0x0000000A#32].map CommandWord.wf = [false, false] := by decide
theorem test_wf_refuses_small_obuf : capacitiesWf 0 259 = false ∧ capacitiesWf 0 260 = true := by decide

/-! ## Decoding (E-1, E-2): every constructor's word, written out from R120 and R121 -/

theorem test_decode_nop : decode 0b00000000000000000000000000000000#32 = .legal .nop := by decide
theorem test_decode_count : decode 0b00000000000000000000000000000001#32 = .legal .count := by decide
theorem test_decode_build : decode 0b00000000000000000000000000000010#32 = .legal .build := by decide
theorem test_decode_derive : decode 0b00000000000000000000000000000011#32 = .legal .derive := by decide
theorem test_decode_pack : decode 0b00000000000000000000000000000100#32 = .legal .pack := by decide
theorem test_decode_parse : decode 0b00000000000000000000000000000101#32 = .legal .parse := by decide
theorem test_decode_unpack : decode 0b00000000000000000000000000000110#32 = .legal .unpack := by decide
theorem test_decode_compress : decode 0b00000000000000000000000000001000#32 = .legal .compress := by decide
theorem test_decode_decompress : decode 0b00000000000000000000000000001001#32 = .legal .decompress := by decide
theorem test_decode_illegal :
    [0x7#32, 0xA, 0xFF, 0x101, 0x80000008, 0xFFFFFFFF].map (fun w => (decode w).instr?) =
      List.replicate 6 none := by decide
theorem test_decodeTableWord : decodeTableWord 32 9 = some .decompress ∧ decodeTableWord 32 7 = none := by decide

/-- The next step after `withFetchWord` runs the word: STATUS after each command as the first one (N-1, F-1, T-1, R-1, HA-1, S-3). -/
theorem test_first_command :
    [0, 1, 2, 3, 4, 5, 6, 8, 9].map (fun w => after (step (State.reset.withFetchWord 32 w)) fun s => s.status.word) =
      [0x02#32, 0x02, 0x22, 0x06, 0x06, 0x06, 0x06, 0x62, 0x06].map some := by decide +kernel

/-! ## Memory -/

theorem test_write_sorts_and_replaces :
    Memory.write (Memory.write (Memory.write [] 7 1) 2 3) 7 4 = [(2, 3), (7, 4)] := by decide

/-! ## COUNT (F-2, F-4, F-5) -/

theorem test_count_abracadabra :
    after (exec .count (loaded abra 11)) (fun s => ([0x61, 0x62, 0x72, 0x63, 0x64, 0].map (atSymbol s.freq), s.status.word)) =
      some ([5#32, 2, 2, 1, 1, 0], 0x02#32) := by decide +kernel
theorem test_count_in_range :
    after (exec .count (loaded [] 4097)) (fun s => (s.errCode.word, s.errInfo, s.status.word)) =
      some (0x0103#32, 0#32, 0x06#32) := by decide +kernel

/-! ## BUILD (T-1, T-3) -/

theorem test_build_equal_weights :
    after (exec .build State.reset) (fun s => (nodeAt s.node 510, s.status.word)) =
      some (⟨0, 508, 509⟩, 0x22#32) := by decide +kernel
/-- The last five merges of T-3, with its tie cases, from the working set they start with. -/
theorem test_merges_abracadabra :
    merges 5 506 ([⟨5, 0x61⟩, ⟨2, 0x62⟩, ⟨1, 0x63⟩, ⟨1, 0x64⟩, ⟨2, 0x72⟩, ⟨0, 505⟩].foldr insertNode []) =
      [⟨1, 505, 0x63⟩, ⟨2, 0x64, 506⟩, ⟨4, 0x62, 0x72⟩, ⟨6, 507, 508⟩, ⟨11, 0x61, 509⟩] := by decide +kernel

/-! ## DERIVE (K-2, K-6) -/

theorem test_derive_abracadabra :
    after (exec .derive { abraPack with cb := Vector.replicate 256 ⟨0, 0⟩ })
        (fun s => [0x61, 0x62, 0x72, 0x64, 0x63].map (atSymbol s.cb)) =
      some [⟨1, 0⟩, ⟨3, 3⟩, ⟨3, 7⟩, ⟨3, 1⟩, ⟨4, 0xD⟩] := by decide +kernel
theorem test_derive_without_tree :
    after (exec .derive State.reset) (fun s => (s.errCode.word, s.status.word)) = some (0x0302#32, 0x06#32) := by
  decide +kernel

/-! ## PACK (P-3, P-10) -/

theorem test_pack_abracadabra :
    after (exec .pack abraPack) (fun s => ([0, 260, 261, 262].map s.obufAt, s.outLen, s.bitCnt)) =
      some ([11#8, 0x76, 0x2D, 0x76], 263#32, 24#64) := by decide +kernel
theorem test_pack_overflow :
    after (exec .pack { abraPack with obufSize := 262 })
        (fun s => ([260, 261].map s.obufAt, s.obuf.lookup 262, s.errCode.word, s.errInfo)) =
      some ([0x76#8, 0x2D], none, 0x0405#32, 7#32) := by decide +kernel

/-! ## PARSE (S-1, S-3) -/

theorem test_parse_header :
    after (exec .parse (loaded ([0x0A, 0, 0, 0] ++ List.replicate 65 0 ++ [0x0A] ++ List.replicate 190 0 ++ [0xFF, 3]) 262))
        (fun s => (s.expLen, atSymbol s.freq 0x41, atSymbol s.freq 0x42, s.status.word)) =
      some (10#32, 10#32, 0#32, 0x02#32) := by decide +kernel
theorem test_parse_short :
    after (exec .parse (loaded [] 259)) (fun s => (s.errCode.word, s.status.word)) = some (0x0504#32, 0x06#32) := by
  decide +kernel

/-! ## UNPACK (U-3, U-4) -/

theorem test_unpack_prefix :
    after (exec .unpack (abraUnpack 4)) (fun s => ([0, 1, 2, 3].map s.obufAt, s.obuf.lookup 4, s.outLen, s.bitCnt)) =
      some ([0x61#8, 0x62, 0x72, 0x61], none, 4#32, 8#64) := by decide +kernel
theorem test_unpack_truncated :
    after (exec .unpack (abraUnpack 12)) (fun s => (s.obufAt 10, s.errCode.word, s.errInfo, s.outLen)) =
      some (0x61#8, 0x0606#32, 11#32, 0#32) := by decide +kernel

/-! ## NOP, COMPRESS, DECOMPRESS (N-1, HA-1, M-5, M-6) -/

theorem test_nop :
    after (exec .nop abraPack) (fun s => (s.status.word, s.outLen)) = some (0x62#32, 0#32) := by decide +kernel
theorem test_compress_empty :
    after (exec .compress State.reset) (fun s => (s.outLen, s.bitCnt, s.obufAt 259, s.status.word)) =
      some (260#32, 0#64, 0#8, 0x62#32) := by decide +kernel
theorem test_compress_in_range :
    after (exec .compress (loaded [] 4097)) (fun s => s.errCode.word) = some 0x0103#32 := by decide +kernel
theorem test_decompress_empty :
    after (exec .decompress (loaded (List.replicate 260 0) 260)) (fun s => (s.expLen, s.outLen, s.status.word)) =
      some (0#32, 0#32, 0x22#32) := by decide +kernel
theorem test_decompress_short :
    after (exec .decompress (loaded [] 10)) (fun s => s.errCode.word) = some 0x0504#32 := by decide +kernel

/-! ## The host interface (H-1, H-3, H-5, H-6, H-7, K-7, I-1, R-2, R-4) -/

theorem test_read_id_and_reserved :
    [0x000, 0x00E, 0x02C, 0x034, 0x3FF0, 0x7FFC].map State.reset.regRead = [0x48554631#32, 0, 4096, 0, 0, 0] := by
  decide +kernel
theorem test_read_windows :
    ([nodeOffset 510 0, nodeOffset 510 2, nodeOffset 0x61 1, nodeOffset 506 0].map abraPack.regRead,
      [cbOffset 0x63 0, cbOffset 0x63 1, cbOffset 0x63 2].map abraPack.regRead) =
      ([0x81FD0061#32, 0x0000000B, 0x00000061, 0x806301F9], [4#32, 0xD, 0]) := by decide +kernel
theorem test_status_w1c :
    (({ State.reset with status := ⟨false, true, true, false, false, true, false⟩ } : State).regWrite 0x00C 2).status.word =
      0x24 := by decide +kernel
theorem test_misaligned_write_ignored : State.reset.regWrite 0x009 8 = State.reset := rfl
theorem test_ibuf_write_range :
    ((State.reset.ibufWrite 4096 0x55).ibuf, (State.reset.ibufWrite 4095 0x55).ibuf) =
      (([], [(4095, 0x55)]) : Memory × Memory) := by decide +kernel
theorem test_busy_write_sets_ovr :
    ((busyWith 8).regWrite 0x018 5).inLen = 0 ∧ ((busyWith 8).regWrite 0x018 5).status.word = 0x09 := by decide +kernel
theorem test_busy_read_is_blank :
    ((accept 8 { abraPack with outLen := 263 }).regRead 0x020, (accept 8 abraPack).regRead (nodeOffset 510 0)) =
      (0, 0) := by decide +kernel
/-- `RUN NOP` with IE = 1, one poll seeing BUSY: irq rises at the completion, and the last poll reads DONE (I-1). -/
theorem test_irq_after_nop :
    after (core.run 5 (idle (wr 0x004 1 ++ run .nop 1))) (fun s => (s.irq, s.hostData)) =
      some (true, .word 0x02#32) := by decide +kernel
theorem test_soft_reset_while_busy :
    after (step { accept 8 { abraPack with obuf := [(0, 1)] } with turns := srst })
        (fun s => (s.status.word, s.ie, s.obuf, s.obufEpoch, s.ibuf.length)) =
      some (0#32, false, [], 1, 11) := by decide +kernel

/-! ## States that meet the hypotheses of the statements -/

/-- A busy state right after acceptance meets the invariant. -/
theorem busyWith_inv (w : Word) : (busyWith w).Inv where
  capacities := rfl
  ibufForm := ⟨List.Pairwise.nil, fun _ h => nomatch h⟩
  obufForm := ⟨List.Pairwise.nil, fun _ h => nomatch h⟩
  bookNeedsTree := fun h => nomatch h
  busyClean := fun _ => ⟨rfl, rfl, rfl, rfl⟩
  busyResult := fun _ _ => by constructor <;> simp [busyWith, accept, State.reset]
  errRecorded := fun h => nomatch h
  noErrorNoInfo := fun _ => ⟨rfl, rfl⟩
  outFits := by
    show (if clearsResult w then 0 else State.reset.outLen) ≤ Config.obufSize
    split <;> decide
  treeCurrent := fun h => nomatch h
  bookCurrent := fun h => nomatch h

/-- The state after BUILD as the first command, with an archive of 261 bytes in IBUF and EXP_LEN = 1. -/
def built : State :=
  { (buildRun State.reset).conclude with ibuf := [(260, 0)], inLen := 261, expLen := 1 }

theorem built_inv : built.Inv where
  capacities := by decide
  ibufForm := by decide
  obufForm := ⟨List.Pairwise.nil, fun _ h => nomatch h⟩
  bookNeedsTree := fun h => nomatch h
  busyClean := fun h => nomatch h
  busyResult := fun h => nomatch h
  errRecorded := fun h => nomatch h
  noErrorNoInfo := fun _ => ⟨rfl, rfl⟩
  outFits := by decide
  treeCurrent := fun _ => (buildTree_again State.reset.freq State.reset.node).symm
  bookCurrent := fun h => nomatch h

theorem wit_DecodeAndEncodeAgree : Instr.wf .pack = true ∧ decode 9 = .legal .decompress := by decide
theorem wit_StepRunsTheAcceptedCommand :
    (busyWith 4).status.busy = true ∧ decode (busyWith 4).cmd = .legal .pack ∧ engineMoves (busyWith 4) :=
  ⟨rfl, rfl, .inr ⟨[], rfl⟩⟩
theorem wit_IllegalWordRaises :
    (busyWith 0x107).status.busy = true ∧ decode (busyWith 0x107).cmd = .illegal .reservedBitsSet ∧
      engineMoves (busyWith 0x107) := ⟨rfl, rfl, .inr ⟨[], rfl⟩⟩
theorem wit_IdleEngineDoesNothing : (idle []).status.busy = false ∧ engineMoves (idle []) := ⟨rfl, .inl rfl⟩
theorem wit_CmdWriteIsAcceptedWhenIdle :
    (idle (wr 0x008 9)).turns = .host (.regWrite 0x008 9) :: [] ∧ (idle (wr 0x008 9)).status.busy = false ∧
      (accept 1 (idle (wr 0x008 9))).turns = .host (.regWrite 0x008 9) :: [] ∧
      (accept 1 (idle (wr 0x008 9))).status.busy = true := ⟨rfl, rfl, rfl, rfl⟩
theorem wit_EngineTurnEndsTheCommand :
    (busyWith 8).Inv ∧ (busyWith 8).status.busy = true ∧ engineMoves (busyWith 8) :=
  ⟨busyWith_inv 8, rfl, .inr ⟨[], rfl⟩⟩
theorem wit_BusyEnds : (accept 8 (idle (rd 0x00C))).status.busy = true := rfl
theorem wit_CountCountsEverySymbol :
    ¬ (loaded abra 11).ibufSize < (loaded abra 11).inLen ∧
      ((loaded [] 4096).inLen = (loaded [] 4096).ibufSize ∧ ¬ (loaded [] 4096).ibufSize < (loaded [] 4096).inLen) ∧
      (loaded [] 4097).ibufSize < (loaded [] 4097).inLen := by decide +kernel
theorem wit_CountsAddUpToInLen : ¬ (loaded abra 11).ibufSize < (loaded abra 11).inLen := by decide +kernel
theorem wit_BuildDependsOnFreqAlone :
    State.reset.freq = abraPack.freq ∧ (∃ t, exec .build State.reset = .next t) ∧ (∃ t, exec .build abraPack = .next t) ∧
      (510 : NodeIndex).toNat ≤ 510 := ⟨rfl, ⟨_, rfl⟩, ⟨_, rfl⟩, by decide⟩
theorem wit_EqualFrequenciesPairInOrder : ∀ k : Byte, atSymbol ({ State.reset with freq := Vector.replicate 256 7 } : State).freq k = 7 :=
  fun k => atSymbol_replicate 7 k
theorem wit_OneSymbolTree :
    atSymbol (setSymbol State.reset.freq 0x41 10) 0x41 ≠ 0 ∧
      ∀ k : Byte, k ≠ 0x41 → atSymbol (setSymbol State.reset.freq 0x41 10) k = 0 := by
  refine ⟨by simp, fun k h => ?_⟩
  rw [atSymbol_setSymbol, if_neg (Ne.symm h)]
  exact atSymbol_replicate 0 k
theorem wit_DeriveNeedsATree : State.reset.status.treeValid = false ∧ built.status.treeValid = true := ⟨rfl, rfl⟩
/-- The hypotheses of CodesLeadToTheirLeaves, CodesArePrefixFree and CodeLengthsMeetKraft. -/
theorem wit_CodesLeadToTheirLeaves : built.Inv ∧ built.status.treeValid = true := ⟨built_inv, rfl⟩
theorem wit_CodesArePrefixFree : built.Inv ∧ built.status.treeValid = true ∧ (0x41#8) ≠ 0x42#8 :=
  ⟨built_inv, rfl, by decide⟩
theorem wit_CodeLengthsMeetKraft : built.Inv ∧ built.status.treeValid = true := ⟨built_inv, rfl⟩
theorem wit_EqualFrequenciesGiveBinaryCodes : ∀ k : Byte, atSymbol State.reset.freq k = 0 :=
  fun k => atSymbol_replicate 0 k
theorem wit_PackChecksFirst :
    State.reset.status.cbValid = false ∧ ({ abraPack with inLen := 4097 } : State).status.cbValid = true ∧
      ({ abraPack with inLen := 4097 } : State).ibufSize < ({ abraPack with inLen := 4097 } : State).inLen := by
  decide +kernel
theorem wit_PackWritesTheArchive :
    abraPack.status.cbValid = true ∧ ¬ abraPack.ibufSize < abraPack.inLen ∧
      260 + ((codeString abraPack).length + 7) / 8 ≤ ({ abraPack with obufSize := 263 } : State).obufSize.toNat := by
  decide +kernel
theorem wit_PackOverflowStopsAtTheEnd :
    abraPack.status.cbValid = true ∧ ¬ abraPack.ibufSize < abraPack.inLen ∧
      260 ≤ ({ abraPack with obufSize := 262 } : State).obufSize.toNat ∧
      ({ abraPack with obufSize := 262 } : State).obufSize.toNat < 260 + ((codeString abraPack).length + 7) / 8 := by
  decide +kernel
theorem wit_ParseReadsTheHeader :
    (loaded [] 4097).ibufSize < (loaded [] 4097).inLen ∧
      (¬ (loaded [] 259).ibufSize < (loaded [] 259).inLen ∧ (loaded [] 259).inLen.toNat < 260) ∧
      ¬ (loaded [] 260).ibufSize < (loaded [] 260).inLen ∧ 260 ≤ (loaded [] 260).inLen.toNat := by decide +kernel
theorem wit_UnpackChecksFirst :
    State.reset.status.treeValid = false ∧ (abraUnpack 0).status.treeValid = true ∧
      ({ abraUnpack 0 with inLen := 4097 } : State).ibufSize < ({ abraUnpack 0 with inLen := 4097 } : State).inLen ∧
      ({ abraUnpack 0 with inLen := 259 } : State).inLen.toNat < 260 ∧
      ¬ (abraUnpack 4097).ibufSize < (abraUnpack 4097).inLen ∧ 260 ≤ (abraUnpack 4097).inLen.toNat ∧
      (abraUnpack 4097).obufSize < (abraUnpack 4097).expLen := by decide +kernel
theorem wit_UnpackEmitsTheLeavesReached :
    (abraUnpack 11).status.treeValid = true ∧ ¬ (abraUnpack 11).ibufSize < (abraUnpack 11).inLen ∧
      260 ≤ (abraUnpack 11).inLen.toNat ∧ ¬ (abraUnpack 11).obufSize < (abraUnpack 11).expLen ∧
      (abraUnpack 11).expLen.toNat ≤ (payloadLeaves (abraUnpack 11)).length ∧
      (payloadLeaves (abraUnpack 12)).length < (abraUnpack 12).expLen.toNat := by decide +kernel
/-- In the tree of equal weights the code of symbol 0 is eight zeros (K-3). -/
theorem built_code_zero : (atSymbol (deriveBook built.node built.cb) 0).path = List.replicate 8 false := by decide +kernel
theorem wit_UnpackInvertsTheCodeBook :
    built.Inv ∧ built.status.treeValid = true ∧ ¬ built.ibufSize < built.inLen ∧ 260 ≤ built.inLen.toNat ∧
      ¬ built.obufSize < built.expLen ∧ [(0 : Byte)].length = built.expLen.toNat ∧
      ([(0 : Byte)].flatMap fun k => (atSymbol (deriveBook built.node built.cb) k).path) <+: built.payload := by
  refine ⟨built_inv, rfl, by decide +kernel, by decide +kernel, by decide +kernel, by decide +kernel, ?_⟩
  rw [List.flatMap_singleton, built_code_zero]
  decide +kernel
theorem wit_CompressRunsItsSteps :
    (loaded [] 4097).ibufSize < (loaded [] 4097).inLen ∧ ¬ State.reset.ibufSize < State.reset.inLen ∧
      260 + ((codeString (beforePack State.reset)).length + 7) / 8 ≤ State.reset.obufSize.toNat := by decide +kernel
theorem wit_DecompressRunsItsSteps :
    ¬ (loaded (List.replicate 260 0) 260).ibufSize < (loaded (List.replicate 260 0) 260).inLen ∧
      260 ≤ (loaded (List.replicate 260 0) 260).inLen.toNat ∧
      ¬ (loaded (List.replicate 260 0) 260).obufSize < (loaded (List.replicate 260 0) 260).headerLength ∧
      (loaded (List.replicate 260 0) 260).headerLength.toNat ≤
        (payloadLeaves (beforeUnpack (loaded (List.replicate 260 0) 260))).length := by decide +kernel
theorem wit_CompressEqualsItsFourCommands :
    after (exec .compress { State.reset with errCode := ⟨.sequence, 3⟩ }) (fun t => t.errCode.code) = some .sequence ∧
      State.reset.status.busy = false ∧
      after (core.run 2 (State.reset.withProgram (wr 0x008 8 ++ [.engine]))) (fun t => t.status.err) = some false := by
  decide +kernel
theorem wit_DecompressEqualsItsThreeCommands :
    after (core.run 2 ((loaded (List.replicate 260 0) 260).withProgram (wr 0x008 9 ++ [.engine]))) (fun t => t.status.err) =
      some false := by decide +kernel

/-- The archive of the one byte 00 (U-11). -/
def oneByteArchive : State := loaded ([1, 0, 0, 0, 1] ++ List.replicate 255 0 ++ [1]) 261

theorem oneByte_compressed :
    (compressRun (loaded [0] 1)).conclude.obuf = oneByteArchive.ibuf ∧
      (compressRun (loaded [0] 1)).conclude.status.err = false ∧
      oneByteArchive.inLen = (compressRun (loaded [0] 1)).conclude.outLen := by decide +kernel
theorem oneByteArchive_listed : ∀ j, j < 261 → (oneByteArchive.ibuf.lookup j).isSome = true := by decide +kernel
theorem oneByteArchive_decompressed : (decompressRun oneByteArchive).conclude.status.err = false := by decide +kernel

theorem wit_CompressThenDecompressIsTheIdentity :
    (∀ k : Byte, ((List.range (loaded [0] 1).inLen.toNat).filter fun i => (loaded [0] 1).ibufAt i == k).length ≤ 255) ∧
      ∃ t u, exec .compress (loaded [0] 1) = .next t ∧ t.status.err = false ∧ oneByteArchive.inLen = t.outLen ∧
        (∀ j, j < t.outLen.toNat → oneByteArchive.ibufAt j = t.obufAt j) ∧
        exec .decompress oneByteArchive = .next u ∧ u.status.err = false := by
  obtain ⟨ho, he, hl⟩ := oneByte_compressed
  refine ⟨fun k => Nat.le_trans (List.length_filter_le ..) (by decide), _, _, rfl, he, hl, fun j hj => ?_, rfl,
    oneByteArchive_decompressed⟩
  rw [← hl] at hj
  obtain ⟨b, hb⟩ := Option.isSome_iff_exists.1 (oneByteArchive_listed j hj)
  rw [State.ibufAt, State.obufAt, ho, hb]
  rfl

/-- A program of one access, before an idle and before a busy block. -/
theorem wit_LockedWritesAreDroppedWhileBusy :
    (accept 1 (idle (wb 0 5))).turns = .host (.ibufWrite 0 5) :: [] ∧ (accept 1 (idle (wb 0 5))).status.busy = true ∧
      (idle (wr 0x01C 7)).turns = .host (.regWrite 0x01C 7) :: [] ∧ (idle (wr 0x01C 7)).status.busy = false ∧
      (0x400#15).toNat = 0x400 + 4 * (0#8).toNat ∧ (0x7FC#15).toNat = 0x400 + 4 * (255#8).toNat :=
  ⟨rfl, rfl, rfl, rfl, rfl, rfl⟩
theorem wit_OtherRegisterWritesAreIgnored :
    (idle (wr 0x034 7)).turns = .host (.regWrite 0x034 7) :: [] ∧
      ∀ off ∈ [0x000#15, 0x009, 0x010, 0x030, 0x034, 0x3FC, 0x401, 0x800, 0x1FFC, 0x2000, 0x3FFC, 0x4000, 0x7FFC],
        ¬ writable off := by
  refine ⟨rfl, fun off h => ?_⟩
  simp only [List.mem_cons, List.not_mem_nil, or_false] at h
  rcases h with h | h | h | h | h | h | h | h | h | h | h | h | h <;> subst h <;>
    rintro (h | h | h | h | h | ⟨k, h⟩) <;> first | exact absurd h (by decide) | (have := k.isLt; simp at h; omega)
theorem wit_FreqWriteInvalidates :
    (0x7FC#15).toNat = 0x400 + 4 * (255#8).toNat ∧
      (idle (wr 0x7FC 3)).turns = .host (.regWrite 0x7FC 3) :: [] ∧ (idle (wr 0x7FC 3)).status.busy = false :=
  ⟨rfl, rfl, rfl⟩
theorem wit_StatusWriteClearsOnes : (idle clrst).turns = .host (.regWrite 0x00C 0x1E) :: [] := rfl
theorem wit_CtrlWriteSetsIeOrResets :
    (idle srst).turns = .host (.regWrite 0x004 2) :: [] ∧ (2#32).getLsbD 1 = true ∧ (idle srst).status.busy = false ∧
      (idle (wr 0x004 1)).turns = .host (.regWrite 0x004 1) :: [] ∧ (1#32).getLsbD 1 = false :=
  ⟨rfl, rfl, rfl, rfl, rfl⟩
theorem wit_PowerResetClearsTheRegisters : (idle [.host .powerReset]).turns = .host .powerReset :: [] := rfl
theorem wit_RegisterReadsWhenIdle :
    (idle (rd 0x400)).turns = .host (.regRead 0x400) :: [] ∧ (idle (rd 0x400)).status.busy = false ∧
      (0x400#15).toNat = 0x400 + 4 * (0#8).toNat ∧ (0x7FC#15).toNat = 0x400 + 4 * (255#8).toNat ∧
      (0x034#15).toNat < 0x400 ∧ 0x800 ≤ (0x800#15).toNat ∧ 0x3FF0 ≤ (0x3FF0#15).toNat ∧ (0x401#15).toNat % 4 ≠ 0 := by
  decide +kernel
theorem wit_ResultsReadZeroWhileBusy :
    (accept 1 (idle (rd 0x020))).turns = .host (.regRead 0x020) :: [] ∧
      (accept 1 (idle (rd 0x020))).status.busy = true ∧
      (0x020#15) ∉ [0x000#15, 0x004#15, 0x008#15, 0x00C#15, 0x018#15, 0x02C#15, 0x030#15] := ⟨rfl, rfl, by decide⟩
theorem wit_NodeWindowLayout :
    (510#9).toNat ≤ 510 ∧ (0x3FEC#15).toNat = 0x2000 + 16 * (510#9).toNat + 4 * (3#2).toNat ∧
      ({ abraPack with turns := rd 0x3FEC } : State).turns = .host (.regRead 0x3FEC) :: [] ∧
      abraPack.status.busy = false ∧ abraPack.status.treeValid = true ∧ State.reset.status.treeValid = false :=
  ⟨by decide, rfl, rfl, rfl, rfl, rfl⟩
theorem wit_CodeBookWindowLayout :
    (0x7FFC#15).toNat = 0x4000 + 64 * (255#8).toNat + 4 * (15#4).toNat ∧
      ({ abraPack with turns := rd 0x7FFC } : State).turns = .host (.regRead 0x7FFC) :: [] ∧
      abraPack.status.busy = false ∧ abraPack.status.cbValid = true ∧ State.reset.status.cbValid = false :=
  ⟨rfl, rfl, rfl, rfl, rfl⟩
theorem wit_BufferAccessesWhenIdle :
    (idle (rbIbuf 4095)).turns = .host (.ibufRead 4095) :: [] ∧ (idle (rbObuf 4096)).turns = .host (.obufRead 4096) :: [] ∧
      (idle (wb 4095 1)).turns = .host (.ibufWrite 4095 1) :: [] ∧ (idle (wb 4095 1)).status.busy = false :=
  ⟨rfl, rfl, rfl, rfl⟩
theorem wit_StepKeepsInv : (busyWith 9).Inv ∧ ∃ t, step (busyWith 9) = .next t := ⟨busyWith_inv 9, _, step_eq _⟩
theorem wit_EngineLeavesTheHostsState : engineMoves (busyWith 9) ∧ ∃ t, step (busyWith 9) = .next t :=
  ⟨.inr ⟨[], rfl⟩, _, step_eq _⟩
theorem wit_ValidFlagsRiseOnlyInBuildAndDerive :
    (busyWith 2).status.treeValid = false ∧ after (step (busyWith 2)) (fun t => t.status.treeValid) = some true ∧
      ({ accept 3 abraPack with status := { (accept 3 abraPack).status with cbValid := false } } : State).status.cbValid = false ∧
      after (step { accept 3 abraPack with status := { (accept 3 abraPack).status with cbValid := false } })
        (fun t => t.status.cbValid) = some true := by decide +kernel
theorem wit_StickyFlagsFallOnlyByTheHost :
    after (step { idle clrst with status := ⟨false, false, false, true, true, false, false⟩ })
        (fun t => (t.status.ovr, t.status.trunc)) = some (false, false) ∧
      after (step (accept 4 { abraPack with freq := setSymbol abraPack.freq 0 256 })) (fun t => t.status.trunc) =
        some true := by decide +kernel
theorem wit_IrqFollowsDone :
    ({ busyWith 0 with ie := true } : State).irq = false ∧
      after (step { busyWith 0 with ie := true }) State.irq = some true ∧
      ({ abraPack with status := ⟨false, true, false, false, false, false, false⟩ } : State).irq = false ∧
      after (step { abraPack with status := ⟨false, true, false, false, false, false, false⟩, turns := wr 0x004 1 })
        State.irq = some true := by decide +kernel
theorem wit_StaleTreeAndBookStayHidden :
    (busyWith 2).Inv ∧ ({ busyWith 2 with cb := abraBook, node := abraTree } : State).Inv ∧
      SameButStale (busyWith 2) { busyWith 2 with cb := abraBook, node := abraTree } ∧ ∃ t, step (busyWith 2) = .next t := by
  have h := busyWith_inv 2
  refine ⟨h, ?_, ⟨rfl, (fun h => nomatch h), (fun h => nomatch h)⟩, _, step_eq _⟩
  exact ⟨h.1, h.2, h.3, h.4, h.5, h.6, h.7, h.8, h.9, (fun h => nomatch h), (fun h => nomatch h)⟩
theorem wit_WrittenInputDecidesTheOutcome :
    (loaded abra 11).inputWritten ∧ ∃ t, exec .count (loaded abra 11) = .next t := by
  refine ⟨fun i hi => ?_, _, exec_eq _ _⟩
  revert i
  decide +kernel

/-- An illegal word leaves OUT_LEN and BITCNT (E-2, H-11); PACK without a code book ends with both 0 (H-11). -/
theorem test_result_after_errors :
    after (step { busyWith 7 with outLen := 262, bitCnt := 10 }) (fun t => (t.outLen, t.bitCnt)) = some (262, 10) ∧
      after (step { accept 4 { State.reset with outLen := 262, bitCnt := 10 } with turns := [.engine] })
        (fun t => (t.outLen, t.bitCnt, t.errCode.word)) = some (0, 0, 0x0402) := by decide +kernel
theorem wit_ErrorsLeaveNoResult :
    ((busyWith 4).Inv ∧ (busyWith 4).status.busy = true ∧ engineMoves (busyWith 4) ∧
      (busyWith 4).cmd ∈ [4#32, 6#32, 8#32, 9#32] ∧
      after (step (busyWith 4)) (fun t => t.status.err) = some true) ∧
      (busyWith 7).Inv ∧ (busyWith 7).status.busy = true ∧ engineMoves (busyWith 7) ∧
      (busyWith 7).cmd ∉ [4#32, 6#32, 8#32, 9#32] :=
  ⟨⟨busyWith_inv 4, rfl, .inr ⟨[], rfl⟩, by decide, by decide +kernel⟩, busyWith_inv 7, rfl, .inr ⟨[], rfl⟩, by decide⟩

end Sys2Proof.Tests
end

/-! # Every step keeps the invariant (O48)

The invariant is split in two.  `State.Contents` is about what the block stores; every command's pseudocode keeps it,
write by write, so the macros' steps chain by `Run.Sound.andThen`.  `State.Protocol` is about STATUS and the error
record; a command meets it in its clean form (`State.RecordClear`), leaves it alone until it ends, and the end
(completion or error exit) restores it. -/

namespace Sys2Proof.Machine

/-! ## The two halves of the invariant -/

/-- The half of `State.Inv` about the stored contents: buffers, OUT_LEN, and NODE and CB under their valid flags. -/
structure State.Contents (s : State) : Prop where
  capacities : capacitiesWf s.ibufSize s.obufSize = true
  ibufForm : Memory.wf s.ibufSize.toNat s.ibuf
  obufForm : Memory.wf s.obufSize.toNat s.obuf
  bookNeedsTree : s.status.cbValid = true → s.status.treeValid = true
  outFits : s.outLen ≤ s.obufSize
  treeCurrent : s.status.treeValid = true → s.node = buildTree s.freq s.node
  bookCurrent : s.status.cbValid = true → s.cb = deriveBook s.node s.cb

/-- ERR and the error record are as acceptance left them: the command has not ended (R161). -/
structure State.RecordClear (s : State) : Prop where
  err : s.status.err = false
  errCode : s.errCode = ⟨.none, 0⟩
  errInfo : s.errInfo = 0

/-- The half of `State.Inv` about the command protocol: BUSY, DONE, ERR and the error record. -/
structure State.Protocol (s : State) : Prop where
  busyClean : s.status.busy = true →
    s.status.done = false ∧ s.status.err = false ∧ s.errCode = ⟨.none, 0⟩ ∧ s.errInfo = 0
  busyResult : s.status.busy = true → clearsResult s.cmd = true → s.outLen = 0 ∧ s.bitCnt = 0
  errRecorded : s.status.err = true → s.errCode.code ≠ .none
  noErrorNoInfo : s.errCode.code = .none → s.errCode.op = 0 ∧ s.errInfo = 0

theorem State.Inv.contents {s : State} (h : s.Inv) : s.Contents := { h with }

theorem State.Inv.protocol {s : State} (h : s.Inv) : s.Protocol := { h with }

theorem State.Contents.inv {s : State} (h : s.Contents) (p : s.Protocol) : s.Inv := { h, p with }

theorem State.Protocol.recordClear {s : State} (p : s.Protocol) (hb : s.status.busy = true) : s.RecordClear := by
  obtain ⟨-, herr, hcode, hinfo⟩ := p.busyClean hb
  exact ⟨herr, hcode, hinfo⟩

theorem SameHost.recordClear {s t : State} (h : SameHost s t) (k : s.RecordClear) : t.RecordClear :=
  ⟨h.err.trans k.err, h.errCode.trans k.errCode, h.errInfo.trans k.errInfo⟩

theorem State.Contents.headerFits {s : State} (h : s.Contents) : hdrLen ≤ s.obufSize.toNat := by
  have hc := h.capacities
  simpa [capacitiesWf, BitVec.le_def, hdrLen] using hc

/-- The turns and the last answer are the model's own: the invariant says nothing of them. -/
theorem State.Inv.withTurns {s : State} (h : s.Inv) (ts : List Turn) : { s with turns := ts }.Inv := { h with }

theorem State.Inv.withHostData {s : State} (h : s.Inv) (d : HostData) : { s with hostData := d }.Inv := { h with }

/-! ## What the commands write -/

/-- A change of FREQ clears both valid flags, so NODE and CB need not follow it (R44, R45). -/
theorem State.Contents.freqChanged {s : State} (h : s.Contents) (n : Word) (f : Vector Word 256) :
    { s with expLen := n, freq := f, status := s.status.freqChanged }.Contents :=
  { h with
    bookNeedsTree := nofun
    treeCurrent := nofun
    bookCurrent := nofun }

theorem State.Contents.treeBuilt {s : State} (h : s.Contents) :
    { s with node := buildTree s.freq s.node, status := s.status.treeBuilt }.Contents :=
  { h with
    bookNeedsTree := nofun
    treeCurrent := fun _ => (buildTree_again s.freq s.node).symm
    bookCurrent := nofun }

theorem State.Contents.bookDerived {s : State} (h : s.Contents) (ht : s.status.treeValid = true) :
    { s with cb := deriveBook s.node s.cb, status := s.status.bookDerived }.Contents :=
  { h with
    bookNeedsTree := fun _ => ht
    bookCurrent := fun _ => (deriveBook_again s.node s.cb).symm }

/-- PACK and UNPACK write OBUF, and OUT_LEN and BITCNT with it (R226, R253). -/
theorem State.Contents.withResult {s : State} (h : s.Contents) {m : Memory} (hm : Memory.wf s.obufSize.toNat m)
    {n : Word} (hn : n ≤ s.obufSize) (b : BitCount) : { s with obuf := m, outLen := n, bitCnt := b }.Contents :=
  { h with obufForm := hm, outFits := hn }

theorem State.Contents.withObuf {s : State} (h : s.Contents) {m : Memory} (hm : Memory.wf s.obufSize.toNat m) :
    { s with obuf := m }.Contents :=
  h.withResult hm h.outFits s.bitCnt

theorem headerBytes_length (len : Word) (freq : Vector Word 256) : (headerBytes len freq).length = hdrLen := by
  simp [headerBytes, hdrLen]

theorem State.Contents.packHeader {s : State} (h : s.Contents) : (packHeader s).Contents :=
  { h with
    obufForm := Memory.writeFrom_wf _ h.obufForm (by rw [headerBytes_length, Nat.zero_add]; exact h.headerFits) }

/-! ## PACK's payload stays in OBUF -/

/-- OBUF is canonical, and has every byte that the bits placed so far have begun. -/
structure Packing.Fits (size : Nat) (t : Packing) : Prop where
  form : Memory.wf size t.obuf
  begun : hdrLen + payloadBytes t.pos ≤ size

theorem Packing.Fits.put {size : Nat} {t : Packing} (h : t.Fits size)
    (hroom : t.pos % 8 = 0 → hdrLen + t.pos / 8 < size) (bit : Bool) : (t.put bit).Fits size := by
  have hbegun : hdrLen + payloadBytes (t.pos + 1) ≤ size := by
    have := h.begun
    unfold payloadBytes at *
    omega
  unfold Packing.put
  split
  · refine ⟨Memory.write_wf _ h.form ?_, hbegun⟩
    unfold payloadBytes at hbegun
    omega
  · exact ⟨h.form, hbegun⟩

theorem Packing.Fits.flush {size : Nat} {t : Packing} (h : t.Fits size) : Memory.wf size t.flush := by
  unfold Packing.flush
  split
  · exact h.form
  · refine Memory.write_wf _ h.form ?_
    have := h.begun
    unfold payloadBytes at this
    omega

/-- The hidden state the packing ends in, whether or not the bits fitted. -/
def Packed.packing : Packed → Packing
  | .all t => t
  | .overflow _ t => t

theorem packBits_fits {size : Nat} (bits : List (Nat × Bool)) {t : Packing} (h : t.Fits size) :
    (packBits size bits t).packing.Fits size := by
  induction bits generalizing t with
  | nil => exact h
  | cons b bits ih =>
    unfold packBits
    split
    · exact h
    · exact ih (h.put (by omega) b.2)

/-! ## UNPACK's symbols stay in OBUF -/

/-- A scanned bit leaves OBUF, or writes the next symbol, which is below EXP_LEN (R256). -/
theorem Unpacking.scan_wf {size expLen : Nat} (hfit : expLen ≤ size) (tree : Vector Node 511) {t : Unpacking}
    (h : Memory.wf size t.obuf) (bit : Bool) : Memory.wf size (t.scan tree expLen bit).obuf := by
  simp only [Unpacking.scan]
  split
  · split
    · exact Memory.write_wf _ h (by omega)
    · exact h
  · exact h

theorem unpackBits_wf {size expLen : Nat} (hfit : expLen ≤ size) (tree : Vector Node 511) (bits : List Bool)
    {m : Memory} (h : Memory.wf size m) : Memory.wf size (unpackBits tree expLen bits m).obuf :=
  List.foldlRecOn (motive := fun t : Unpacking => Memory.wf size t.obuf) bits _ h
    fun _ ht bit _ => Unpacking.scan_wf hfit tree ht bit

/-! ## Every command's pseudocode keeps the contents -/

/-- The run leaves the contents in order, and if it raises, it raises an error. -/
def Run.Sound : Run → Prop
  | .finished s => s.Contents
  | .raised _ e _ s => e ≠ .none ∧ s.Contents

@[simp] theorem Run.sound_finished {s : State} : (Run.finished s).Sound ↔ s.Contents := .rfl
@[simp] theorem Run.sound_raised {op : Byte} {e : ErrorKind} {info : Word} {s : State} :
    (Run.raised op e info s).Sound ↔ e ≠ .none ∧ s.Contents := .rfl

theorem Run.Sound.andThen {r : Run} {f : State → Run} (h : r.Sound) (k : ∀ u : State, u.Contents → (f u).Sound) :
    (r.andThen f).Sound := by
  cases r with
  | finished s => exact k s h
  | raised op e info s => exact h

theorem countRun_sound {s : State} (h : s.Contents) : (countRun s).Sound := by
  rcases countRun_cases s with ⟨-, k⟩ | ⟨-, k⟩ <;> rw [k]
  · simp [h]
  · exact h.freqChanged s.expLen _

theorem buildRun_sound {s : State} (h : s.Contents) : (buildRun s).Sound := h.treeBuilt

theorem deriveRun_sound {s : State} (h : s.Contents) : (deriveRun s).Sound := by
  rcases deriveRun_cases s with ⟨-, k⟩ | ⟨ht, k⟩ <;> rw [k]
  · simp [h]
  · exact h.bookDerived ht

theorem parseRun_sound {s : State} (h : s.Contents) : (parseRun s).Sound := by
  rcases parseRun_cases s with ⟨-, k⟩ | ⟨-, -, k⟩ | ⟨-, -, k⟩ <;> rw [k]
  · simp [h]
  · simp [h]
  · exact h.freqChanged _ _

/-- OUT_LEN = 260 + ceil(B/8) is exact and at most OBUF_SIZE, since OBUF has every byte begun. -/
theorem packPayload_sound {s : State} (h : s.Contents) : (packPayload s).Sound := by
  have hfits := packBits_fits (codeBits s.cb s.input)
    (t := ⟨0, 0, s.obuf⟩) ⟨h.obufForm, by simpa [payloadBytes] using h.headerFits⟩
  rcases packPayload_cases s with ⟨i, t, hp, k⟩ | ⟨t, hp, k⟩ <;> rw [k] <;> rw [hp] at hfits
  · exact ⟨by simp, h.withObuf hfits.form⟩
  · refine h.withResult hfits.flush ?_ _
    rw [BitVec.le_def, BitVec.toNat_ofNat]
    exact (Nat.mod_le ..).trans hfits.begun

theorem packRun_sound {s : State} (h : s.Contents) : (packRun s).Sound := by
  rcases packRun_cases s with ⟨-, k⟩ | ⟨-, -, k⟩ | ⟨-, -, k⟩ <;> rw [k]
  · simp [h]
  · simp [h]
  · exact packPayload_sound h.packHeader

theorem unpackPayload_sound {s : State} (h : s.Contents) (hfit : s.expLen ≤ s.obufSize) :
    (unpackPayload s).Sound := by
  have hform := unpackBits_wf (BitVec.le_def.1 hfit) s.node s.payload h.obufForm
  rcases unpackPayload_cases s with ⟨-, k⟩ | ⟨-, k⟩ <;> rw [k]
  · exact ⟨by simp, h.withObuf hform⟩
  · exact h.withResult hform hfit _

theorem unpackRun_sound {s : State} (h : s.Contents) : (unpackRun s).Sound := by
  rcases unpackRun_cases s with ⟨-, k⟩ | ⟨-, -, k⟩ | ⟨-, -, -, k⟩ | ⟨-, -, -, -, k⟩ | ⟨-, -, -, hfit, k⟩ <;> rw [k]
  · simp [h]
  · simp [h]
  · simp [h]
  · simp [h]
  · exact unpackPayload_sound h (BitVec.not_lt.1 hfit)

theorem commandRun_sound (i : Instr) {s : State} (h : s.Contents) : (commandRun i s).Sound := by
  cases i with
  | nop => exact h
  | count => exact countRun_sound h
  | build => exact buildRun_sound h
  | derive => exact deriveRun_sound h
  | pack => exact packRun_sound h
  | parse => exact parseRun_sound h
  | unpack => exact unpackRun_sound h
  | compress =>
    exact (((countRun_sound h).andThen fun _ => buildRun_sound).andThen fun _ => deriveRun_sound).andThen
      fun _ => packRun_sound
  | decompress => exact ((parseRun_sound h).andThen fun _ => buildRun_sound).andThen fun _ => unpackRun_sound

/-! ## The end of a command, and the engine's turn -/

theorem complete_inv {s : State} (h : s.Contents) (hrec : s.RecordClear) : (complete s).Inv :=
  State.Contents.inv { h with }
    { busyClean := nofun
      busyResult := nofun
      errRecorded := fun he => absurd he (by simp [hrec.err])
      noErrorNoInfo := fun _ => by simp [hrec.errCode, hrec.errInfo] }

theorem raise_inv {s : State} (h : s.Contents) (op : Byte) {e : ErrorKind} (he : e ≠ .none) (info : Word) :
    (raise op e info s).Inv :=
  State.Contents.inv { h with }
    { busyClean := nofun
      busyResult := nofun
      errRecorded := fun _ => he
      noErrorNoInfo := fun hn => absurd hn he }

theorem Run.Sound.conclude_inv {r : Run} (h : r.Sound) (hrec : r.state.RecordClear) : r.conclude.Inv := by
  cases r with
  | finished s => exact complete_inv h hrec
  | raised op e info s => exact raise_inv h.2 op h.1 info

theorem commandRun_conclude_inv (i : Instr) {s : State} (h : s.Inv) (hb : s.status.busy = true) :
    (commandRun i s).conclude.Inv :=
  (commandRun_sound i h.contents).conclude_inv ((commandRun_sameHost i s).recordClear (h.protocol.recordClear hb))

theorem raiseIllegal_inv {s : State} (h : s.Inv) : (raiseIllegal s).Inv :=
  raise_inv h.contents _ (by simp) _

/-! ## The host's accesses -/

theorem accept_inv (w : Word) {s : State} (h : s.Contents) : (accept w s).Inv := by
  refine State.Contents.inv { h with outFits := ?_ }
    { busyClean := fun _ => ⟨rfl, rfl, rfl, rfl⟩
      busyResult := fun _ hw => ?_
      errRecorded := nofun
      noErrorNoInfo := fun _ => ⟨rfl, rfl⟩ }
  · rw [accept_outLen, accept_obufSize]
    split
    · exact BitVec.le_def.2 (Nat.zero_le _)
    · exact h.outFits
  · rw [accept_cmd] at hw
    simp [hw]

theorem powerReset_inv {s : State} (h : s.Inv) : (powerReset s).Inv where
  capacities := h.capacities
  ibufForm := ⟨.nil, nofun⟩
  obufForm := ⟨.nil, nofun⟩
  bookNeedsTree := nofun
  busyClean := nofun
  busyResult := nofun
  errRecorded := nofun
  noErrorNoInfo := fun _ => ⟨rfl, rfl⟩
  outFits := BitVec.le_def.2 (Nat.zero_le _)
  treeCurrent := nofun
  bookCurrent := nofun

theorem softReset_inv {s : State} (h : s.Inv) : (softReset s).Inv := by
  refine { powerReset_inv h with ibufForm := h.ibufForm, obufForm := ?_ }
  rw [softReset_obuf, softReset_obufSize]
  split
  · exact (powerReset_inv h).obufForm
  · exact h.obufForm

theorem State.Inv.writeCtrl {s : State} (h : s.Inv) (v : Word) : (s.writeCtrl v).Inv := by
  unfold State.writeCtrl
  split
  · exact softReset_inv h
  · exact { h with }

/-- Clearing DONE or ERR by hand asks nothing new of the error record (R38, R41). -/
theorem State.Inv.clearWritten {s : State} (h : s.Inv) (v : Word) :
    { s with status := s.status.clearWritten v }.Inv := by
  refine { h with busyClean := fun hb => ?_, errRecorded := fun he => ?_ }
  · obtain ⟨hdone, herr, hcode, hinfo⟩ := h.busyClean hb
    simp [hdone, herr, hcode, hinfo]
  · exact h.errRecorded (Bool.and_elim_left he)

theorem State.Inv.writeFreq {s : State} (h : s.Inv) (k : Byte) (v : Word) : (s.writeFreq k v).Inv :=
  (h.contents.freqChanged s.expLen (setSymbol s.freq k v)).inv { h with }

/-- A locked write is dropped with OVR <- 1, or made when idle. -/
theorem State.Inv.locked {s : State} (h : s.Inv) {idle : State → State} (k : (idle s).Inv) :
    (s.locked idle).Inv := by
  unfold State.locked
  split
  · exact { h with }
  · exact k

theorem State.Inv.writePlace {s : State} (h : s.Inv) (v : Word) (p : Place) : (s.writePlace v p).Inv := by
  cases p with
  | ctrl => exact h.writeCtrl v
  | cmd => exact h.locked (accept_inv v h.contents)
  | status => exact h.clearWritten v
  | inLen => exact h.locked (idle := fun s => { s with inLen := v }) { h with }
  | expLen => exact h.locked (idle := fun s => { s with expLen := v }) { h with }
  | freq k => exact h.locked (idle := fun s => s.writeFreq k v) (h.writeFreq k v)
  | _ => exact h

theorem State.Inv.ibufWrite {s : State} (h : s.Inv) (i : Word) (b : Byte) : (s.ibufWrite i b).Inv := by
  refine h.locked ?_
  split
  · rename_i hi
    exact { h with ibufForm := Memory.write_wf b h.ibufForm hi }
  · exact h

theorem hostAccess_inv (a : HostAccess) {s : State} (h : s.Inv) : (hostAccess a s).Inv := by
  cases a with
  | regRead off => exact h.withHostData _
  | regWrite off v => exact (h.writePlace v (placeOf off)).withHostData _
  | ibufRead i => exact h.withHostData _
  | ibufWrite i b => exact (h.ibufWrite i b).withHostData _
  | obufRead i => exact h.withHostData _
  | powerReset => exact powerReset_inv h

end Sys2Proof.Machine

namespace Sys2Proof.Proofs

open Sys2Proof.Machine

/-- Settles O48: a step is a host access, an idle engine turn, a command run to its end, or an illegal word's error. -/
theorem stepKeepsInv : Obligations.StepKeepsInv := by
  unfold Obligations.StepKeepsInv
  intro s t h hst
  rcases step_cases hst with ⟨a, rest, -, rfl⟩ | ⟨-, -, rfl⟩ | ⟨-, hb, i, -, rfl⟩ | ⟨-, -, w, -, rfl⟩
  · exact hostAccess_inv a (h.withTurns rest)
  · exact h.withTurns _
  · exact commandRun_conclude_inv i (h.withTurns _) hb
  · exact raiseIllegal_inv (h.withTurns _)

end Sys2Proof.Proofs

/-! # The working set and the merges of BUILD -/

namespace Sys2Proof.Machine

/-- W holds what it held and the new node (R192). -/
theorem insertNode_perm (k : Key) (w : List Key) : (insertNode k w).Perm (k :: w) := by
  induction w with
  | nil => exact .refl _
  | cons x w ih =>
    unfold insertNode
    split
    · exact (ih.cons x).trans (.swap k x w)
    · exact .refl _

theorem foldr_insertNode_perm (l : List Key) : (l.foldr insertNode []).Perm l := by
  induction l with
  | nil => exact .refl _
  | cons k l ih => exact (insertNode_perm k _).trans (ih.cons k)

/-- The working set starts as the 256 leaves, in some order (R190). -/
theorem leafKeys_index_perm (freq : Vector Word 256) :
    ((leafKeys freq).map Key.index).Perm (List.range 256) := by
  have h := (foldr_insertNode_perm (freq.toList.zipIdx.map fun p => (⟨p.1.toNat, p.2⟩ : Key))).map Key.index
  simpa [leafKeys, Function.comp_def, List.zipIdx_map_snd, List.range_eq_range'] using h

theorem leafKeys_length (freq : Vector Word 256) : (leafKeys freq).length = 256 := by
  simpa using (leafKeys_index_perm freq).length_eq

/-- A working set of one node more than the merges to do lets every merge happen (R193). -/
theorem merges_length {todo : Nat} (next : Nat) {w : List Key} (h : w.length = todo + 1) :
    (merges todo next w).length = todo := by
  induction todo generalizing next w with
  | zero => unfold merges; rfl
  | succ todo ih =>
    match w, h with
    | a :: b :: w, h =>
      simp only [merges, List.length_cons, Nat.add_right_cancel_iff]
      exact ih _ (by simpa [(insertNode_perm _ w).length_eq] using h)

theorem treeMerges_length (freq : Vector Word 256) : (treeMerges freq).length = 255 :=
  merges_length _ (leafKeys_length freq)

/-- Every internal node of a built tree is a merge's: nothing of the old NODE is left in it (R192, R198). -/
theorem buildTree_merge (freq : Vector Word 256) (old : Vector Node 511) {k : Nat} (hk : k < 255) :
    (buildTree freq old)[256 + k] = ((treeMerges freq)[k]'(by rw [treeMerges_length]; exact hk)).node := by
  rw [buildTree_internal _ _ (by omega)]
  simp [treeMerges_length, hk]

end Sys2Proof.Machine

/-! # The walk of DERIVE visits the whole tree

`Forest tree ns ls` says that the nodes `ns`, taken as DERIVE's stack, have the leaves `ls` below them.  Its constructors
are the walk's two kinds of pop, so `walk` is followed by induction on it; merges keep it on the working set. -/

namespace Sys2Proof.Machine

/-- The leaves below the nodes of a stack, in the order of the walk (R213). -/
inductive Forest (tree : Vector Node 511) : List NodeIndex → List NodeIndex → Prop
  | nil : Forest tree [] []
  | leaf {n : NodeIndex} {ns ls : List NodeIndex} (hn : n.toNat < 256) (h : Forest tree ns ls) :
      Forest tree (n :: ns) (n :: ls)
  | inner {n : NodeIndex} {ns ls : List NodeIndex} (hn : ¬ n.toNat < 256)
      (h : Forest tree ((nodeAt tree n).child false :: (nodeAt tree n).child true :: ns) ls) : Forest tree (n :: ns) ls

variable {tree : Vector Node 511}

theorem Forest.of_leaves {ns : List NodeIndex} (h : ∀ n ∈ ns, n.toNat < 256) : Forest tree ns ns := by
  induction ns with
  | nil => exact .nil
  | cons n ns ih => exact .leaf (h n List.mem_cons_self) (ih fun m hm => h m (List.mem_cons_of_mem _ hm))

theorem Forest.append {ns ms ls ks : List NodeIndex} (h : Forest tree ns ls) (k : Forest tree ms ks) :
    Forest tree (ns ++ ms) (ls ++ ks) := by
  induction h with
  | nil => exact k
  | leaf hn _ ih => exact .leaf hn ih
  | inner hn _ ih => exact .inner hn ih

theorem Forest.split {ns ms ls : List NodeIndex} (h : Forest tree (ns ++ ms) ls) :
    ∃ l k, ls = l ++ k ∧ Forest tree ns l ∧ Forest tree ms k := by
  generalize hst : ns ++ ms = stack at h
  induction h generalizing ns with
  | nil =>
    obtain ⟨rfl, rfl⟩ := List.append_eq_nil_iff.1 hst
    exact ⟨[], [], rfl, .nil, .nil⟩
  | @leaf n _ _ hn hf ih =>
    cases ns with
    | nil => obtain rfl : ms = n :: _ := hst; exact ⟨[], _, rfl, .nil, .leaf hn hf⟩
    | cons m ns =>
      obtain ⟨rfl, rfl⟩ := List.cons.inj hst
      obtain ⟨l, k, rfl, hl, hk⟩ := ih rfl
      exact ⟨_, k, rfl, .leaf hn hl, hk⟩
  | @inner n _ _ hn hf ih =>
    cases ns with
    | nil => obtain rfl : ms = n :: _ := hst; exact ⟨[], _, rfl, .nil, .inner hn hf⟩
    | cons m ns =>
      obtain ⟨rfl, rfl⟩ := List.cons.inj hst
      obtain ⟨l, k, rfl, hl, hk⟩ := ih (ns := _ :: _ :: ns) rfl
      exact ⟨l, k, rfl, .inner hn hl, hk⟩

/-- The order of the stack only orders the leaves. -/
theorem Forest.perm {ns ms ls : List NodeIndex} (hp : ns.Perm ms) (h : Forest tree ns ls) :
    ∃ ks, ks.Perm ls ∧ Forest tree ms ks := by
  induction hp generalizing ls with
  | nil => exact ⟨ls, .refl _, h⟩
  | cons n _ ih =>
    obtain ⟨l, k, rfl, hl, hk⟩ := Forest.split (ns := [n]) h
    obtain ⟨k', hperm, hk'⟩ := ih hk
    exact ⟨l ++ k', hperm.append_left l, hl.append hk'⟩
  | swap n m ns =>
    obtain ⟨l, k, rfl, hl, hk⟩ := Forest.split (ns := [m]) h
    obtain ⟨l', k, rfl, hl', hk⟩ := Forest.split (ns := [n]) hk
    refine ⟨l' ++ (l ++ k), ?_, hl'.append (hl.append hk)⟩
    simpa only [List.append_assoc] using (List.perm_append_comm (l₁ := l') (l₂ := l)).append_right k
  | trans _ _ ih₁ ih₂ =>
    obtain ⟨k, hk, hf⟩ := ih₁ h
    obtain ⟨k', hk', hf'⟩ := ih₂ hf
    exact ⟨k', hk'.trans hk, hf'⟩

theorem Forest.length_le {ns ls : List NodeIndex} (h : Forest tree ns ls) : ns.length ≤ ls.length := by
  induction h with
  | nil => exact Nat.le_refl _
  | leaf _ _ ih => simpa using ih
  | inner _ _ ih => simp only [List.length_cons] at *; omega

/-- A walk with fuel for every node of the forest (a forest of n trees and m leaves has 2m - n nodes) leaves in CB
nothing of what stood at the leaves. -/
theorem Forest.walk_eq {ns ls : List NodeIndex} (h : Forest tree ns ls) {fuel : Nat}
    {stack : List (NodeIndex × List Bool)} (hns : stack.map Prod.fst = ns) (hfuel : 2 * ls.length ≤ fuel + ns.length)
    {cb cb' : Vector Code 256}
    (hcb : ∀ (i : Nat) (hi : i < 256), (∀ n ∈ ls, n.toNat ≠ i) → cb[i] = cb'[i]) :
    walk tree fuel stack cb = walk tree fuel stack cb' := by
  induction h generalizing fuel stack cb cb' with
  | nil =>
    have : cb = cb' := Vector.ext fun i hi => hcb i hi (by simp)
    rw [this]
  | @leaf n ns ls hn hf ih =>
    obtain ⟨⟨_, p⟩, stack, rfl, rfl, rfl⟩ := List.map_eq_cons_iff.1 hns
    have hle := hf.length_le
    simp only [List.length_cons] at hfuel
    obtain ⟨fuel, rfl⟩ : ∃ f, fuel = f + 1 := ⟨fuel - 1, by omega⟩
    simp only [walk, hn, dif_pos]
    refine ih rfl (by omega) fun i hi hls => ?_
    rw [Vector.getElem_set, Vector.getElem_set]
    split
    · rfl
    · exact hcb i hi (by simp_all)
  | @inner n ns ls hn hf ih =>
    obtain ⟨⟨_, p⟩, stack, rfl, rfl, rfl⟩ := List.map_eq_cons_iff.1 hns
    have hle := hf.length_le
    simp only [List.length_cons] at hfuel hle
    obtain ⟨fuel, rfl⟩ : ∃ f, fuel = f + 1 := ⟨fuel - 1, by omega⟩
    simp only [walk, hn, dif_neg, not_false_eq_true]
    exact ih rfl (by simp only [List.length_cons]; omega) hcb

/-! ## The built tree is a forest of one tree -/

/-- The node index of a working set's member. -/
def Key.node (k : Key) : NodeIndex := BitVec.ofNat 9 k.index

/-- NODE holds the records of these merges from node `next` on. -/
def holdsMerges (tree : Vector Node 511) (next : Nat) (ms : List Merge) : Prop :=
  ∀ j (hj : j < ms.length), nodeAt tree (BitVec.ofNat 9 (next + j)) = ms[j].node

theorem holdsMerges_cons {next : Nat} {m : Merge} {ms : List Merge} :
    holdsMerges tree next (m :: ms) ↔
      nodeAt tree (BitVec.ofNat 9 next) = m.node ∧ holdsMerges tree (next + 1) ms := by
  constructor
  · intro h
    refine ⟨h 0 (by simp), fun j hj => ?_⟩
    have := h (j + 1) (by simpa using hj)
    rwa [List.getElem_cons_succ, ← Nat.add_assoc, Nat.add_right_comm] at this
  · rintro ⟨h, hs⟩ (_ | j) hj
    · exact h
    · rw [List.getElem_cons_succ, ← Nat.add_assoc, Nat.add_right_comm]
      exact hs j (by simpa using hj)

/-- One merge takes its two nodes' place (R192). -/
theorem Forest.merge {next : Nat} (hlow : 256 ≤ next) (hhigh : next ≤ 510) {a b : Key} {weight : Nat}
    (hrec : nodeAt tree (BitVec.ofNat 9 next) = (⟨weight, a.index, b.index⟩ : Merge).node) {ns ls : List NodeIndex}
    (h : Forest tree (a.node :: b.node :: ns) ls) : Forest tree (BitVec.ofNat 9 next :: ns) ls := by
  refine .inner (by rw [BitVec.toNat_ofNat]; omega) ?_
  rw [hrec]
  exact h

/-- The merges join the forest of the working set into the root's one tree, on the same leaves (R192, R193, R197). -/
theorem Forest.all_merges {todo next : Nat} (hlow : 256 ≤ next) (hroot : next + todo = 510) {w : List Key}
    (hw : w.length = todo + 2) (hheld : holdsMerges tree next (merges (todo + 1) next w)) {ls : List NodeIndex}
    (h : Forest tree (w.map Key.node) ls) : ∃ ks, ks.Perm ls ∧ Forest tree [root] ks := by
  induction todo generalizing next w ls with
  | zero =>
    obtain ⟨a, b, rfl⟩ := List.length_eq_two.1 hw
    obtain rfl : next = 510 := hroot
    exact ⟨ls, .refl _, h.merge hlow (by omega) (holdsMerges_cons.1 hheld).1⟩
  | succ todo ih =>
    match w, hw with
    | a :: b :: w, hw =>
      rw [merges, holdsMerges_cons] at hheld
      obtain ⟨hrec, hheld⟩ := hheld
      have hins := insertNode_perm ⟨a.weight + b.weight, next⟩ w
      obtain ⟨ks, hks, hf⟩ := (h.merge hlow (by omega) hrec).perm (hins.map Key.node).symm
      obtain ⟨ks', hks', hf'⟩ := ih (by omega) (by omega) (by simpa [hins.length_eq] using hw) hheld hf
      exact ⟨ks', hks'.trans hks, hf'⟩

theorem nodeAt_ofNat (v : Vector Node 511) {n : Nat} (hn : n < 511) : nodeAt v (BitVec.ofNat 9 n) = v[n] := by
  have hmod : n % 2 ^ 9 = n := Nat.mod_eq_of_lt (by omega)
  simp only [nodeAt, BitVec.toNat_ofNat, hmod, hn, dif_pos]

theorem buildTree_holdsMerges (freq : Vector Word 256) (old : Vector Node 511) :
    holdsMerges (buildTree freq old) leafCount (treeMerges freq) := by
  intro j hj
  have hj' : j < 255 := treeMerges_length freq ▸ hj
  rw [leafCount, nodeAt_ofNat _ (by omega), buildTree_merge _ _ hj']

/-- Below the root of a built tree stand the 256 leaves, each once (R197). -/
theorem buildTree_forest (freq : Vector Word 256) (old : Vector Node 511) :
    ∃ ls, ls.Perm ((List.range 256).map (BitVec.ofNat 9)) ∧ Forest (buildTree freq old) [root] ls := by
  have hperm : ((leafKeys freq).map Key.node).Perm ((List.range 256).map (BitVec.ofNat 9)) := by
    have := (leafKeys_index_perm freq).map (BitVec.ofNat 9)
    rwa [List.map_map] at this
  have hleaf : ∀ n ∈ (leafKeys freq).map Key.node, n.toNat < 256 := by
    intro n hn
    obtain ⟨k, hk, rfl⟩ := List.mem_map.1 (hperm.mem_iff.1 hn)
    exact (Nat.mod_le ..).trans_lt (List.mem_range.1 hk)
  obtain ⟨ks, hks, hf⟩ := (Forest.of_leaves hleaf).all_merges (todo := 254) (Nat.le_refl _) rfl (leafKeys_length freq)
    (buildTree_holdsMerges freq old)
  exact ⟨ks, hks.trans hperm, hf⟩

/-- DERIVE from a built tree overwrites the whole of CB (R213, R215). -/
theorem deriveBook_buildTree (freq : Vector Word 256) (old : Vector Node 511) (cb cb' : Vector Code 256) :
    deriveBook (buildTree freq old) cb = deriveBook (buildTree freq old) cb' := by
  obtain ⟨ls, hls, hf⟩ := buildTree_forest freq old
  have hlen : ls.length = 256 := by simpa using hls.length_eq
  refine hf.walk_eq rfl (by simp [hlen]) fun i hi hn => absurd ?_ (hn (BitVec.ofNat 9 i) ?_)
  · rw [BitVec.toNat_ofNat]; omega
  · exact hls.mem_iff.2 (List.mem_map_of_mem (List.mem_range.2 hi))

end Sys2Proof.Machine

/-! # Stale NODE and CB contents stay hidden (O53)

With TREE_VALID = 1 two states of the relation agree on `SameTree`, which is all of NODE that the engine and the windows
read; with CB_VALID = 1 they agree on CB.  BUILD makes the trees agree whatever NODE held, and DERIVE from a built tree
makes the books agree whatever CB held, since its walk reaches every leaf. -/

namespace Sys2Proof.Machine

open Sys2Proof.Claims

/-! ## What of NODE can be seen -/

/-- The two NODEs agree on every weight and on the children of every internal node. -/
def SameTree (v v' : Vector Node 511) : Prop :=
  ∀ n, n ≤ 510 → weightN v' n = weightN v n ∧ (256 ≤ n → leftN v' n = leftN v n ∧ rightN v' n = rightN v n)

theorem nodeAt_of_not_lt (v : Vector Node 511) {n : NodeIndex} (h : ¬ n.toNat < 511) : nodeAt v n = ⟨0, 0, 0⟩ := by
  rw [nodeAt, dif_neg h]

theorem nodeN_toNat (v : Vector Node 511) (n : NodeIndex) : nodeN v n.toNat = nodeAt v n := by
  rw [nodeN, BitVec.ofNat_toNat, BitVec.setWidth_eq]

section
variable {v v' : Vector Node 511} (h : SameTree v v')
include h

theorem SameTree.weight (n : NodeIndex) : (nodeAt v' n).weight = (nodeAt v n).weight := by
  by_cases hn : n.toNat < 511
  · have := (h n.toNat (by omega)).1
    simpa only [weightN, nodeN_toNat, BitVec.toNat_inj] using this
  · rw [nodeAt_of_not_lt v hn, nodeAt_of_not_lt v' hn]

theorem SameTree.child {n : NodeIndex} (hi : ¬ n.toNat < 256) (b : Bool) :
    (nodeAt v' n).child b = (nodeAt v n).child b := by
  by_cases hn : n.toNat < 511
  · obtain ⟨hl, hr⟩ := (h n.toNat (by omega)).2 (by omega)
    simp only [leftN, rightN, nodeN_toNat, BitVec.toNat_inj] at hl hr
    simp only [Node.child, hl, hr]
  · rw [nodeAt_of_not_lt v hn, nodeAt_of_not_lt v' hn]

/-- The NODE window shows no child of a leaf (R136). -/
theorem SameTree.nodeWindow_eq (n : NodeIndex) (w : BitVec 2) : nodeWindow v' n w = nodeWindow v n w := by
  unfold nodeWindow
  by_cases hn : n.toNat < leafCount
  · simp only [hn, h.weight n, decide_true, if_true]
  · have hl : (nodeAt v' n).left = (nodeAt v n).left := h.child hn false
    have hr : (nodeAt v' n).right = (nodeAt v n).right := h.child hn true
    simp only [hl, hr, h.weight n]

theorem SameTree.walk_eq (fuel : Nat) (stack : List (NodeIndex × List Bool)) (cb : Vector Code 256) :
    walk v' fuel stack cb = walk v fuel stack cb := by
  induction fuel generalizing stack cb with
  | zero => rfl
  | succ fuel ih =>
    match stack with
    | [] => rfl
    | (n, p) :: stack =>
      by_cases hn : n.toNat < 256
      · simp only [walk, hn, dif_pos, ih]
      · simp only [walk, hn, dif_neg, not_false_eq_true, ih, h.child hn]

/-- UNPACK's current node is never a leaf (R253). -/
theorem SameTree.scan_eq (expLen : Nat) {t : Unpacking} (ht : ¬ t.node.toNat < leafCount) (bit : Bool) :
    t.scan v' expLen bit = t.scan v expLen bit := by
  simp only [Unpacking.scan, h.child ht]

omit h in
theorem Unpacking.scan_node (v : Vector Node 511) (expLen : Nat) (t : Unpacking) (bit : Bool) :
    ¬ (t.scan v expLen bit).node.toNat < leafCount := by
  simp only [Unpacking.scan]
  split
  · split <;> simp [root, leafCount]
  · assumption

theorem SameTree.unpackBits_eq (expLen : Nat) (bits : List Bool) (m : Memory) :
    unpackBits v' expLen bits m = unpackBits v expLen bits m := by
  unfold unpackBits
  have hroot : ¬ (⟨root, 0, 0, 0, m⟩ : Unpacking).node.toNat < leafCount := by simp [root, leafCount]
  generalize (⟨root, 0, 0, 0, m⟩ : Unpacking) = t at hroot
  induction bits generalizing t with
  | nil => rfl
  | cons b bits ih =>
    simp only [List.foldl_cons, h.scan_eq expLen hroot]
    exact ih _ (Unpacking.scan_node v expLen t b)

end

/-- What of a built tree can be seen comes from FREQ alone (R198). -/
theorem sameTree_buildTree (freq : Vector Word 256) (v v' : Vector Node 511) :
    SameTree (buildTree freq v) (buildTree freq v') := by
  intro n hn
  simp only [weightN, leftN, rightN, nodeN, nodeAt_ofNat _ (Nat.lt_succ_of_le hn)]
  by_cases hleaf : n < 256
  · simp [buildTree_leaf _ _ hleaf, Nat.not_le.2 hleaf]
  · obtain ⟨k, rfl⟩ := Nat.exists_eq_add_of_le (Nat.not_lt.1 hleaf)
    simp [buildTree_merge _ _ (show k < 255 by omega)]

end Sys2Proof.Machine

/-! ## The relation, and updates that keep it -/

namespace Sys2Proof.Claims

open Sys2Proof.Machine

/-- The relation with its second state written out. -/
theorem sameButStale_iff {s s' : State} :
    SameButStale s s' ↔ ∃ v c, s' = { s with node := v, cb := c } ∧
      (s.status.treeValid = true → SameTree s.node v) ∧ (s.status.cbValid = true → c = s.cb) := by
  constructor
  · intro h
    exact ⟨s'.node, s'.cb, h.rest, h.tree, h.book⟩
  · rintro ⟨v, c, rfl, hv, hc⟩
    exact ⟨rfl, hv, hc⟩

theorem SameButStale.refl (s : State) : SameButStale s s :=
  ⟨rfl, fun _ _ _ => ⟨rfl, fun _ => ⟨rfl, rfl⟩⟩, fun _ => rfl⟩

/-- The update neither reads nor writes NODE and CB, and sets no valid flag. -/
structure IgnoresTreeAndBook (f : State → State) : Prop where
  commutes : ∀ s v c, f { s with node := v, cb := c } = { f s with node := v, cb := c } := by intros; rfl
  node : ∀ s, (f s).node = s.node := by intros; rfl
  cb : ∀ s, (f s).cb = s.cb := by intros; rfl
  treeValid : ∀ s, (f s).status.treeValid = true → s.status.treeValid = true := by exact fun _ => id
  cbValid : ∀ s, (f s).status.cbValid = true → s.status.cbValid = true := by exact fun _ => id

theorem SameButStale.update {s s' : State} (h : SameButStale s s') (f : State → State) (hf : IgnoresTreeAndBook f) :
    SameButStale (f s) (f s') := by
  obtain ⟨v, c, rfl, hv, hc⟩ := sameButStale_iff.1 h
  refine sameButStale_iff.2 ⟨v, c, hf.commutes s v c, fun ht => ?_, fun hb => ?_⟩
  · exact hf.node s ▸ hv (hf.treeValid s ht)
  · exact hf.cb s ▸ hc (hf.cbValid s hb)

/-! ## The host's accesses -/

section
variable {s s' : State}

/-- No register, window or FREQ read tells the two states apart (R57, R58, R61). -/
theorem SameButStale.readPlace_eq (h : SameButStale s s') (p : Place) : s'.readPlace p = s.readPlace p := by
  obtain ⟨v, c, rfl, hv, hc⟩ := sameButStale_iff.1 h
  cases p with
  | nodeWord n w =>
    by_cases ht : s.status.treeValid = true
    · simp [State.readPlace, State.whenIdle, ht, (hv ht).nodeWindow_eq n w]
    · simp [State.readPlace, State.whenIdle, ht]
  | cbWord k w =>
    by_cases hb : s.status.cbValid = true
    · simp [State.readPlace, State.whenIdle, hb, hc hb]
    · simp [State.readPlace, State.whenIdle, hb]
  | _ => rfl

theorem SameButStale.withHostData (h : SameButStale s s') (d : HostData) :
    SameButStale { s with hostData := d } { s' with hostData := d } :=
  h.update (fun s => { s with hostData := d }) {}

theorem SameButStale.withTurns (h : SameButStale s s') (ts : List Turn) :
    SameButStale { s with turns := ts } { s' with turns := ts } :=
  h.update (fun s => { s with turns := ts }) {}

theorem SameButStale.status_eq (h : SameButStale s s') : s'.status = s.status := by rw [h.rest]

theorem SameButStale.powerReset_eq (h : SameButStale s s') : powerReset s' = powerReset s := by rw [h.rest]; rfl

theorem SameButStale.softReset_eq (h : SameButStale s s') : softReset s' = softReset s := by rw [h.rest]; rfl

theorem SameButStale.locked (h : SameButStale s s') {idle : State → State} (k : SameButStale (idle s) (idle s')) :
    SameButStale (s.locked idle) (s'.locked idle) := by
  by_cases hb : s.status.busy = true
  · have hb' : s'.status.busy = true := h.status_eq ▸ hb
    rw [State.locked, State.locked, if_pos hb, if_pos hb']
    exact h.update (fun s => { s with status := s.status.markOverrun }) {}
  · have hb' : ¬ s'.status.busy = true := h.status_eq ▸ hb
    rw [State.locked, State.locked, if_neg hb, if_neg hb']
    exact k

theorem SameButStale.lockedUpdate (h : SameButStale s s') (idle : State → State) (hidle : IgnoresTreeAndBook idle) :
    SameButStale (s.locked idle) (s'.locked idle) :=
  h.locked (h.update idle hidle)

theorem SameButStale.writeCtrl (h : SameButStale s s') (v : Word) :
    SameButStale (s.writeCtrl v) (s'.writeCtrl v) := by
  unfold State.writeCtrl
  split
  · rw [h.softReset_eq]
    exact .refl _
  · exact h.update (fun s => { s with ie := v.getLsbD 0 }) {}

theorem SameButStale.writePlace (h : SameButStale s s') (v : Word) (p : Place) :
    SameButStale (s.writePlace v p) (s'.writePlace v p) := by
  cases p with
  | ctrl => exact h.writeCtrl v
  | cmd =>
    exact h.lockedUpdate (accept v) {}
  | status =>
    exact h.update (fun s => { s with status := s.status.clearWritten v }) {}
  | inLen =>
    exact h.lockedUpdate (fun s => { s with inLen := v }) {}
  | expLen =>
    exact h.lockedUpdate (fun s => { s with expLen := v }) {}
  | freq k =>
    exact h.lockedUpdate (fun s => s.writeFreq k v)
      { treeValid := fun _ h => Bool.noConfusion h, cbValid := fun _ h => Bool.noConfusion h }
  | _ => exact h

theorem SameButStale.ibufWrite (h : SameButStale s s') (i : Word) (b : Byte) :
    SameButStale (s.ibufWrite i b) (s'.ibufWrite i b) := by
  refine h.locked ?_
  have hsize : s'.ibufSize = s.ibufSize := by rw [h.rest]
  by_cases hi : i < s.ibufSize
  · have hi' : i < s'.ibufSize := hsize ▸ hi
    rw [if_pos hi, if_pos hi']
    exact h.update (fun s => { s with ibuf := s.ibuf.write i.toNat b }) {}
  · have hi' : ¬ i < s'.ibufSize := hsize ▸ hi
    rw [if_neg hi, if_neg hi']
    exact h

theorem SameButStale.access (h : SameButStale s s') (a : HostAccess) :
    SameButStale (hostAccess a s) (hostAccess a s') := by
  cases a with
  | regRead off =>
    have hread : s'.regRead off = s.regRead off := h.readPlace_eq (placeOf off)
    simpa only [hostAccess, hread] using h.withHostData (.word (s.regRead off))
  | regWrite off v => exact (h.writePlace v (placeOf off)).withHostData _
  | ibufRead i =>
    have hread : s'.ibufRead i = s.ibufRead i := by rw [h.rest]; rfl
    simpa only [hostAccess, hread] using h.withHostData (.byte (s.ibufRead i))
  | ibufWrite i b => exact (h.ibufWrite i b).withHostData _
  | obufRead i =>
    have hread : s'.obufRead i = s.obufRead i := by rw [h.rest]; rfl
    simpa only [hostAccess, hread] using h.withHostData (.byte (s.obufRead i))
  | powerReset =>
    simp only [hostAccess, h.powerReset_eq]
    exact .refl _

end

end Sys2Proof.Claims

/-! ## The commands -/

namespace Sys2Proof.Machine

open Sys2Proof.Claims

/-- The two runs end in the same way, in states that the relation holds of. -/
inductive Run.Alike : Run → Run → Prop
  | finished {s s' : State} (h : SameButStale s s') : Alike (.finished s) (.finished s')
  | raised {s s' : State} (op : Byte) (e : ErrorKind) (info : Word) (h : SameButStale s s') :
      Alike (.raised op e info s) (.raised op e info s')

theorem Run.Alike.andThen {r r' : Run} {f : State → Run} (h : r.Alike r') (hr : r.Sound)
    (k : ∀ {u u' : State}, u.Contents → SameButStale u u' → (f u).Alike (f u')) :
    (r.andThen f).Alike (r'.andThen f) := by
  cases h with
  | finished h => exact k hr h
  | raised op e info h => exact .raised op e info h

theorem Run.Alike.conclude {r r' : Run} (h : r.Alike r') : SameButStale r.conclude r'.conclude := by
  cases h with
  | finished h =>
    exact h.update complete {}
  | raised op e info h =>
    exact h.update (raise op e info) {}

section
variable {s s' : State} (h : SameButStale s s')
include h

theorem countRun_alike : (countRun s).Alike (countRun s') := by
  obtain ⟨v, c, rfl, -, -⟩ := sameButStale_iff.1 h
  unfold countRun
  split
  · exact .raised _ _ _ h
  · exact .finished (sameButStale_iff.2 ⟨v, c, rfl, nofun, nofun⟩)

theorem parseRun_alike : (parseRun s).Alike (parseRun s') := by
  obtain ⟨v, c, rfl, -, -⟩ := sameButStale_iff.1 h
  unfold parseRun
  split
  · exact .raised _ _ _ h
  · split
    · exact .raised _ _ _ h
    · exact .finished (sameButStale_iff.2 ⟨v, c, rfl, nofun, nofun⟩)

theorem buildRun_alike : (buildRun s).Alike (buildRun s') := by
  obtain ⟨v, c, rfl, -, -⟩ := sameButStale_iff.1 h
  exact .finished (sameButStale_iff.2 ⟨_, c, rfl, fun _ => sameTree_buildTree s.freq s.node v, nofun⟩)

/-- DERIVE runs on a tree BUILD made, and rewrites every code (R213, R215). -/
theorem deriveRun_alike (hs : s.Contents) : (deriveRun s).Alike (deriveRun s') := by
  obtain ⟨v, c, rfl, hv, -⟩ := sameButStale_iff.1 h
  unfold deriveRun
  split
  · rename_i ht
    refine .finished (sameButStale_iff.2 ⟨v, _, rfl, hv, fun _ => ?_⟩)
    calc deriveBook v c = deriveBook s.node c := (hv ht).walk_eq ..
      _ = deriveBook s.node s.cb := by rw [hs.treeCurrent ht]; exact deriveBook_buildTree ..
  · exact .raised _ _ _ h

theorem packPayload_alike (hb : s.status.cbValid = true) : (packPayload s).Alike (packPayload s') := by
  obtain ⟨v, c, rfl, hv, hc⟩ := sameButStale_iff.1 h
  obtain rfl := hc hb
  have hbits : packBits s.obufSize.toNat (codeBits s.cb { s with node := v, cb := s.cb }.input) ⟨0, 0, s.obuf⟩ =
      packBits s.obufSize.toNat (codeBits s.cb s.input) ⟨0, 0, s.obuf⟩ := rfl
  unfold packPayload
  simp only [hbits]
  split
  · exact .raised _ _ _ (sameButStale_iff.2 ⟨v, _, rfl, hv, hc⟩)
  · exact .finished (sameButStale_iff.2 ⟨v, _, rfl, hv, hc⟩)

theorem packRun_alike : (packRun s).Alike (packRun s') := by
  have hstatus := h.status_eq
  have hlen : s'.inLen = s.inLen := by rw [h.rest]
  have hsize : s'.ibufSize = s.ibufSize := by rw [h.rest]
  simp only [packRun, hstatus, hlen, hsize]
  split
  · exact .raised _ _ _ h
  · split
    · exact .raised _ _ _ h
    · exact packPayload_alike (h.update packHeader {}) (by simp_all)

theorem unpackPayload_alike (ht : s.status.treeValid = true) : (unpackPayload s).Alike (unpackPayload s') := by
  obtain ⟨v, c, rfl, hv, -⟩ := sameButStale_iff.1 h
  have hbits : unpackBits v s.expLen.toNat { s with node := v, cb := c }.payload s.obuf =
      unpackBits s.node s.expLen.toNat s.payload s.obuf := (hv ht).unpackBits_eq ..
  unfold unpackPayload
  simp only [hbits]
  generalize unpackBits s.node s.expLen.toNat s.payload s.obuf = t
  split
  · exact .raised _ _ _ (h.update (fun s => { s with obuf := t.obuf }) {})
  · exact .finished
      (h.update (fun s => { s with obuf := t.obuf, outLen := s.expLen, bitCnt := BitVec.ofNat 64 t.last }) {})

theorem unpackRun_alike : (unpackRun s).Alike (unpackRun s') := by
  have hstatus := h.status_eq
  have hlen : s'.inLen = s.inLen := by rw [h.rest]
  have hsize : s'.ibufSize = s.ibufSize := by rw [h.rest]
  have hexp : s'.expLen = s.expLen := by rw [h.rest]
  have hobuf : s'.obufSize = s.obufSize := by rw [h.rest]
  simp only [unpackRun, hstatus, hlen, hsize, hexp, hobuf]
  split
  · exact .raised _ _ _ h
  · split
    · exact .raised _ _ _ h
    · split
      · exact .raised _ _ _ h
      · split
        · exact .raised _ _ _ h
        · exact unpackPayload_alike h (by simp_all)

end

theorem commandRun_alike (i : Instr) {s s' : State} (hs : s.Contents) (h : SameButStale s s') :
    (commandRun i s).Alike (commandRun i s') := by
  cases i with
  | nop => exact .finished h
  | count => exact countRun_alike h
  | build => exact buildRun_alike h
  | derive => exact deriveRun_alike h hs
  | pack => exact packRun_alike h
  | parse => exact parseRun_alike h
  | unpack => exact unpackRun_alike h
  | compress =>
    have hcount := countRun_sound hs
    have hbuild := hcount.andThen fun _ => buildRun_sound
    have hderive := hbuild.andThen fun _ => deriveRun_sound
    exact (((countRun_alike h).andThen hcount fun _ h => buildRun_alike h).andThen hbuild
      fun hu h => deriveRun_alike h hu).andThen hderive fun _ h => packRun_alike h
  | decompress =>
    have hparse := parseRun_sound hs
    have hbuild := hparse.andThen fun _ => buildRun_sound
    exact ((parseRun_alike h).andThen hparse fun _ h => buildRun_alike h).andThen hbuild fun _ h => unpackRun_alike h

theorem raiseIllegal_alike {s s' : State} (h : SameButStale s s') :
    SameButStale (raiseIllegal s) (raiseIllegal s') :=
  h.update raiseIllegal {}

theorem afterEngine_alike {s s' : State} (hs : s.Contents) (h : SameButStale s s') :
    SameButStale (afterEngine s) (afterEngine s') := by
  have hcmd : s'.cmd = s.cmd := by rw [h.rest]
  simp only [afterEngine, h.status_eq, hcmd]
  split
  · split
    · exact (commandRun_alike _ hs h).conclude
    · exact raiseIllegal_alike h
  · exact h

/-- Both states take the same turn. -/
theorem afterStep_alike {s s' : State} (hs : s.Contents) (h : SameButStale s s') :
    SameButStale (afterStep s) (afterStep s') := by
  have hturns : s'.turns = s.turns := by rw [h.rest]
  simp only [afterStep, hturns]
  split
  · exact afterEngine_alike hs h
  · exact afterEngine_alike { hs with } (h.withTurns _)
  · exact (h.withTurns _).access _

end Sys2Proof.Machine

namespace Sys2Proof.Proofs

open Sys2Proof.Machine

/-- Settles O53: both states take the same turn, and every turn keeps the relation. -/
theorem staleTreeAndBookStayHidden : Obligations.StaleTreeAndBookStayHidden := by
  unfold Obligations.StaleTreeAndBookStayHidden
  intro s s' t hs _ h hst
  obtain rfl : afterStep s = t := Host.Outcome.next.inj ((step_eq s).symm.trans hst)
  exact ⟨_, step_eq s', afterStep_alike hs.contents h⟩

end Sys2Proof.Proofs

/-! # The register map and the registers' words -/

namespace Sys2Proof.Machine

open Sys2Proof.Claims

/-! ## Host steps -/

theorem step_host {s : State} {a : HostAccess} {rest : List Turn} (h : s.turns = .host a :: rest) :
    step s = .next (hostAccess a { s with turns := rest }) := by
  rw [step, h]

/-- A register write made as the step's turn (R90). -/
theorem step_regWrite {s : State} {off : RegOffset} {v : Word} {rest : List Turn} {p : Place}
    (h : s.turns = .host (.regWrite off v) :: rest) (hp : placeOf off = p) :
    step s = .next { ({ s with turns := rest } : State).writePlace v p with hostData := .nothing } := by
  rw [step_host h, ← hp]
  rfl

theorem State.locked_idle {s : State} (h : s.status.busy = false) (idle : State → State) : s.locked idle = idle s := by
  simp [State.locked, h]

theorem State.whenIdle_idle {s : State} (h : s.status.busy = false) (v : Word) : s.whenIdle v = v := by
  simp [State.whenIdle, h]

/-! ## The register map (R32, R53, R93) -/

theorem placeOf_misaligned {off : RegOffset} (h : off.toNat % 4 ≠ 0) : placeOf off = .misaligned := by
  simp only [placeOf, if_pos h]

theorem placeOf_control {off : RegOffset} (h : off.toNat % 4 = 0) (hlow : off.toNat < 0x400) :
    placeOf off = controlPlace off.toNat := by
  simp [placeOf, h, hlow]

theorem placeOf_freq {off : RegOffset} {k : Byte} (h : off.toNat = 0x400 + 4 * k.toNat) : placeOf off = .freq k := by
  have hk := k.isLt
  have hindex : (off.toNat - 0x400) / 4 = k.toNat := by omega
  simp only [placeOf]
  rw [if_neg (by omega), if_neg (by omega), if_pos (by omega), hindex, BitVec.ofNat_toNat, BitVec.setWidth_eq]

theorem exists_freq_offset {off : RegOffset} (h : off.toNat % 4 = 0) (hlow : 0x400 ≤ off.toNat)
    (hhigh : off.toNat < 0x800) : ∃ k : Byte, off.toNat = 0x400 + 4 * k.toNat := by
  refine ⟨BitVec.ofNat 8 ((off.toNat - 0x400) / 4), ?_⟩
  rw [BitVec.toNat_ofNat]
  omega

theorem controlPlace_reserved {a : Nat} (h : 0x030 < a) : controlPlace a = .reserved := by
  unfold controlPlace
  split <;> simp at h ⊢

theorem placeOf_reserved {off : RegOffset} (haligned : off.toNat % 4 = 0)
    (h : (0x030 < off.toNat ∧ off.toNat < 0x400) ∨ (0x800 ≤ off.toNat ∧ off.toNat < 0x2000) ∨
      (0x3FF0 ≤ off.toNat ∧ off.toNat < 0x4000)) : placeOf off = .reserved := by
  rcases h with ⟨hl, hh⟩ | ⟨hl, hh⟩ | ⟨hl, hh⟩
  · rw [placeOf_control haligned hh, controlPlace_reserved hl]
  · simp only [placeOf]
    rw [if_neg (by omega), if_neg (by omega), if_neg (by omega), if_pos hh]
  · simp only [placeOf]
    rw [if_neg (by omega), if_neg (by omega), if_neg (by omega), if_neg (by omega), if_neg (by omega), if_pos hh]

/-- The registers below 0x400 other than CTRL, CMD, STATUS, IN_LEN and EXP_LEN ignore a write (R53, R163). -/
theorem writePlace_controlPlace (s : State) (v : Word) {a : Nat} (h : a ∉ [0x004, 0x008, 0x00C, 0x018, 0x01C]) :
    s.writePlace v (controlPlace a) = s := by
  unfold controlPlace
  split <;> simp_all [State.writePlace]

/-- From 0x800 on there are only windows and reserved offsets (R32, R58, R61). -/
theorem writePlace_window (s : State) (v : Word) {off : RegOffset} (h : 0x800 ≤ off.toNat) :
    s.writePlace v (placeOf off) = s := by
  simp only [placeOf]
  split
  · rfl
  · rw [if_neg (by omega), if_neg (by omega)]
    split
    · rfl
    · split
      · rfl
      · split <;> rfl

theorem writePlace_of_not_writable (s : State) (v : Word) {off : RegOffset} (h : ¬ writable off) :
    s.writePlace v (placeOf off) = s := by
  have hoff : off.toNat ∉ [0x004, 0x008, 0x00C, 0x018, 0x01C] := by
    simp only [writable, ← BitVec.toNat_inj, not_or] at h
    simp_all
  by_cases haligned : off.toNat % 4 = 0
  · by_cases hcontrol : off.toNat < 0x400
    · rw [placeOf_control haligned hcontrol, writePlace_controlPlace s v hoff]
    · refine writePlace_window s v (Nat.not_lt.1 fun hfreq => ?_)
      obtain ⟨k, hk⟩ := exists_freq_offset haligned (Nat.not_lt.1 hcontrol) hfreq
      exact h (.inr (.inr (.inr (.inr (.inr ⟨k, hk⟩)))))
  · rw [placeOf_misaligned haligned]
    rfl

/-! ## The words of the registers (R34 to R46) -/

theorem Status.getLsbD_word (t : Status) (j : Nat) :
    t.word.getLsbD j = ([t.busy, t.done, t.err, t.ovr, t.trunc, t.treeValid, t.cbValid][j]?).getD false := by
  change BitVec.getLsbD (w := 25 + 1 + 1 + 1 + 1 + 1 + 1 + 1) _ j = _
  rcases j with _ | _ | _ | _ | _ | _ | _ | j <;> simp only [Status.word, BitVec.getLsbD_append] <;> simp

theorem ErrCode.getLsbD_word (e : ErrCode) (j : Nat) :
    e.word.getLsbD j =
      if j < 8 then e.code.number.getLsbD j else if j < 16 then e.op.getLsbD (j - 8) else false := by
  change BitVec.getLsbD (w := 16 + 8 + 8) _ j = _
  simp only [ErrCode.word, BitVec.getLsbD_append]
  split
  · rfl
  · simp [show j - 8 < 8 ↔ j < 16 by omega]

theorem ErrCode.word_code (e : ErrCode) : e.word.extractLsb' 0 8 = e.code.number := by
  refine BitVec.eq_of_getLsbD_eq fun i hi => ?_
  simp [hi, ErrCode.getLsbD_word, -BitVec.getLsbD_eq_getElem]

theorem ErrCode.word_op (e : ErrCode) : e.word.extractLsb' 8 8 = e.op := by
  refine BitVec.eq_of_getLsbD_eq fun i hi => ?_
  simp [hi, ErrCode.getLsbD_word, -BitVec.getLsbD_eq_getElem, show 8 + i < 16 by omega]

theorem ErrCode.word_high (e : ErrCode) : e.word.extractLsb' 16 16 = 0 := by
  refine BitVec.eq_of_getLsbD_eq fun i _ => ?_
  simp [ErrCode.getLsbD_word, -BitVec.getLsbD_eq_getElem, show ¬ 16 + i < 8 by omega]

theorem Status.word_allClear : (⟨false, false, false, false, false, false, false⟩ : Status).word = 0 := by decide

theorem ErrCode.word_none : (⟨.none, 0⟩ : ErrCode).word = 0 := by decide

theorem getLsbD_ctrlWord (ie : Bool) (j : Nat) : (ctrlWord ie).getLsbD j = if j = 0 then ie else false := by
  change BitVec.getLsbD (w := 31 + 1) _ j = _
  rcases j with _ | j <;> simp only [ctrlWord, BitVec.getLsbD_append] <;> simp
/-- A write to STATUS is a mask on its word (R38). -/
theorem Status.word_clearWritten (t : Status) (v : Word) :
    (t.clearWritten v).word = t.word &&& ~~~(v &&& 0x0000001E) := by
  refine BitVec.eq_of_getLsbD_eq fun j hj => ?_
  rw [BitVec.getLsbD_and, BitVec.getLsbD_not, BitVec.getLsbD_and, Status.getLsbD_word, Status.getLsbD_word]
  rcases j with _ | _ | _ | _ | _ | _ | _ | j
  all_goals simp [-BitVec.getLsbD_eq_getElem]

end Sys2Proof.Machine

namespace Sys2Proof.Proofs

open Sys2Proof.Machine Sys2Proof.Claims

/-- Settles O37: `writePlace_of_not_writable` on the state with the turn taken. -/
theorem otherRegisterWritesAreIgnored : Obligations.OtherRegisterWritesAreIgnored := by
  unfold Obligations.OtherRegisterWritesAreIgnored
  intro s off v rest h hoff
  rw [step_regWrite h rfl, writePlace_of_not_writable _ _ hoff]

/-- Settles O39: clearing the written flags is the mask 0x1E on the word. -/
theorem statusWriteClearsOnes : Obligations.StatusWriteClearsOnes := by
  unfold Obligations.StatusWriteClearsOnes
  intro s v rest h
  exact ⟨_, step_regWrite h rfl, s.status.word_clearWritten v, rfl⟩

/-- Settles O38: FREQ is locked only while BUSY = 1, and R55 is `State.writeFreq`. -/
theorem freqWriteInvalidates : Obligations.FreqWriteInvalidates := by
  unfold Obligations.FreqWriteInvalidates
  intro s k off v rest hoff h hidle
  rw [step_regWrite h (placeOf_freq hoff), State.writePlace, State.locked_idle (s := { s with turns := rest }) hidle]
  exact ⟨_, rfl, fun j => by simp [eq_comm], rfl⟩

/-- Settles O40: bit 1 chooses the soft reset, which keeps the capacities, IBUF, and when idle OBUF. -/
theorem ctrlWriteSetsIeOrResets : Obligations.CtrlWriteSetsIeOrResets := by
  unfold Obligations.CtrlWriteSetsIeOrResets
  intro s v rest h
  rw [step_regWrite (p := .ctrl) h rfl, State.writePlace, State.writeCtrl]
  constructor
  · intro hv
    rw [hv]
    rfl
  · intro hv
    rw [hv, if_pos rfl]
    refine ⟨_, rfl, rfl, rfl, Status.word_allClear, ErrCode.word_none, rfl, rfl, rfl, rfl, rfl,
      fun k => atSymbol_replicate 0 k, rfl, rfl, rfl, fun i => rfl, fun hidle i => ?_⟩
    simp [State.obufAt, hidle]

/-- Settles O41: every register of `powerReset` has its reset value. -/
theorem powerResetClearsTheRegisters : Obligations.PowerResetClearsTheRegisters := by
  unfold Obligations.PowerResetClearsTheRegisters
  intro s rest h
  exact ⟨_, step_host h, rfl, rfl, rfl, rfl, Status.word_allClear, ErrCode.word_none, rfl, rfl, rfl, rfl, rfl,
    fun k => atSymbol_replicate 0 k, rfl, rfl, rfl⟩

/-- Settles O42: a read answers `State.regRead`, whose place is the register map's. -/
theorem registerReadsWhenIdle : Obligations.RegisterReadsWhenIdle := by
  unfold Obligations.RegisterReadsWhenIdle
  intro s off rest h hidle
  have hread : ∀ p, placeOf off = p → s.regRead off = s.readPlace p := fun p hp => by rw [State.regRead, hp]
  have hblank : ∀ v, s.whenIdle v = v := State.whenIdle_idle hidle
  refine ⟨s.regRead off, step_host h, ?id, ?ctrl, ?cmd, ?status, ?errCode, ?errInfo, ?inLen, ?expLen, ?outLen,
    ?bitCntLo, ?bitCntHi, ?ibufSize, ?obufSize, ?freq, ?zero⟩
  case freq => exact fun k hk => (hread _ (placeOf_freq hk)).trans (hblank _)
  case zero =>
    intro hoff
    by_cases haligned : off.toNat % 4 = 0
    · exact hread _ (placeOf_reserved haligned (hoff.resolve_left (not_not.2 haligned)))
    · exact hread _ (placeOf_misaligned haligned)
  all_goals rintro rfl
  case id => exact hread .id rfl
  case ctrl =>
    rw [hread .ctrl rfl, State.readPlace]
    refine ⟨getLsbD_ctrlWord s.ie 0, fun j hj => ?_⟩
    rw [getLsbD_ctrlWord, if_neg (by omega)]
  case cmd => exact hread .cmd rfl
  case status =>
    rw [hread .status rfl, State.readPlace]
    refine ⟨s.status.getLsbD_word 0, s.status.getLsbD_word 1, s.status.getLsbD_word 2, s.status.getLsbD_word 3,
      s.status.getLsbD_word 4, s.status.getLsbD_word 5, s.status.getLsbD_word 6, fun j hj => ?_⟩
    rw [Status.getLsbD_word, List.getElem?_eq_none (by simpa using hj), Option.getD_none]
  case errCode =>
    rw [hread .errCode rfl, State.readPlace, hblank]
    exact ⟨s.errCode.word_code, s.errCode.word_op, s.errCode.word_high⟩
  case errInfo => exact (hread .errInfo rfl).trans (hblank _)
  case inLen => exact hread .inLen rfl
  case expLen => exact (hread .expLen rfl).trans (hblank _)
  case outLen => exact (hread .outLen rfl).trans (hblank _)
  case bitCntLo => exact (hread .bitCntLo rfl).trans (hblank _)
  case bitCntHi => exact (hread .bitCntHi rfl).trans (hblank _)
  case ibufSize => exact hread .ibufSize rfl
  case obufSize => exact hread .obufSize rfl

/-- Settles O47: nothing is written yet, no flag stands, and OBUF_SIZE is 4096. -/
theorem invAtReset : Obligations.InvAtReset := by
  unfold Obligations.InvAtReset
  exact
    { capacities := by decide
      ibufForm := ⟨.nil, nofun⟩
      obufForm := ⟨.nil, nofun⟩
      bookNeedsTree := nofun
      busyClean := nofun
      busyResult := nofun
      errRecorded := nofun
      noErrorNoInfo := fun _ => ⟨rfl, rfl⟩
      outFits := by decide
      treeCurrent := nofun
      bookCurrent := nofun }

end Sys2Proof.Proofs

/-! # What a step can do to the flags, the host's state and the results -/

namespace Sys2Proof.Machine

open Sys2Proof.Claims

theorem engineMoves_iff {s : State} : engineMoves s ↔ ∀ a rest, s.turns ≠ .host a :: rest := by
  constructor
  · rintro (h | ⟨_, h⟩) a rest <;> simp [h]
  · intro h
    match hs : s.turns with
    | [] => exact .inl hs
    | .engine :: rest => exact .inr ⟨rest, hs⟩
    | .host a :: rest => exact absurd hs (h a rest)

/-! ## Host accesses -/

/-- What no host access does: change a capacity, or set TREE_VALID, CB_VALID or TRUNC. -/
structure HostFrame (s t : State) : Prop where
  ibufSize : t.ibufSize = s.ibufSize
  obufSize : t.obufSize = s.obufSize
  treeValid : t.status.treeValid = true → s.status.treeValid = true
  cbValid : t.status.cbValid = true → s.status.cbValid = true
  trunc : t.status.trunc = true → s.status.trunc = true

theorem HostFrame.rfl {s : State} : HostFrame s s := ⟨Eq.refl _, Eq.refl _, id, id, id⟩

/-- A locked write is dropped with OVR set, or made (R163). -/
theorem State.locked_induction {P : State → Prop} {s : State} {idle : State → State}
    (hbusy : P { s with status := s.status.markOverrun }) (hidle : P (idle s)) : P (s.locked idle) := by
  unfold State.locked
  split
  · exact hbusy
  · exact hidle

theorem writePlace_hostFrame (s : State) (v : Word) (p : Place) : HostFrame s (s.writePlace v p) := by
  have hdropped : HostFrame s { s with status := s.status.markOverrun } := ⟨rfl, rfl, id, id, id⟩
  cases p with
  | ctrl =>
    simp only [State.writePlace, State.writeCtrl]
    split
    · exact ⟨rfl, rfl, nofun, nofun, nofun⟩
    · exact ⟨rfl, rfl, id, id, id⟩
  | cmd | inLen | expLen =>
    rw [State.writePlace]
    refine State.locked_induction hdropped ?_
    exact ⟨rfl, rfl, id, id, id⟩
  | status => exact ⟨rfl, rfl, id, id, Bool.and_elim_left⟩
  | freq k =>
    rw [State.writePlace]
    refine State.locked_induction hdropped ?_
    exact ⟨rfl, rfl, nofun, nofun, id⟩
  | _ => exact .rfl

theorem ibufWrite_hostFrame (s : State) (i : Word) (b : Byte) : HostFrame s (s.ibufWrite i b) := by
  refine State.locked_induction ⟨rfl, rfl, id, id, id⟩ ?_
  split
  · exact ⟨rfl, rfl, id, id, id⟩
  · exact .rfl

theorem hostAccess_hostFrame (a : HostAccess) (s : State) : HostFrame s (hostAccess a s) := by
  cases a with
  | regRead off => exact ⟨rfl, rfl, id, id, id⟩
  | regWrite off v => exact { writePlace_hostFrame s v (placeOf off) with }
  | ibufRead i => exact ⟨rfl, rfl, id, id, id⟩
  | ibufWrite i b => exact { ibufWrite_hostFrame s i b with }
  | obufRead i => exact ⟨rfl, rfl, id, id, id⟩
  | powerReset => exact ⟨rfl, rfl, nofun, nofun, nofun⟩

/-- OVR and TRUNC stand in `t` if they stand in `s`. -/
structure KeepsSticky (s t : State) : Prop where
  ovr : s.status.ovr = true → t.status.ovr = true
  trunc : s.status.trunc = true → t.status.trunc = true

/-- CTRL and STATUS apart, no register write clears OVR or TRUNC. -/
theorem writePlace_keepsSticky (s : State) (v : Word) {p : Place} (hctrl : p = .ctrl → v.getLsbD 1 = false)
    (hstatus : p ≠ .status) : KeepsSticky s (s.writePlace v p) := by
  have hdropped : KeepsSticky s { s with status := s.status.markOverrun } := ⟨fun _ => rfl, id⟩
  cases p with
  | ctrl =>
    rw [State.writePlace, State.writeCtrl, hctrl rfl]
    exact ⟨id, id⟩
  | cmd | inLen | expLen | freq =>
    rw [State.writePlace]
    refine State.locked_induction hdropped ?_
    exact ⟨id, id⟩
  | status => exact absurd rfl hstatus
  | _ => exact ⟨id, id⟩

theorem ibufWrite_keepsSticky (s : State) (i : Word) (b : Byte) : KeepsSticky s (s.ibufWrite i b) := by
  refine State.locked_induction ⟨fun _ => rfl, id⟩ ?_
  split <;> exact ⟨id, id⟩

theorem controlPlace_eq_ctrl {a : Nat} (h : controlPlace a = .ctrl) : a = 0x004 := by
  unfold controlPlace at h
  split at h <;> simp_all

theorem controlPlace_eq_status {a : Nat} (h : controlPlace a = .status) : a = 0x00C := by
  unfold controlPlace at h
  split at h <;> simp_all

/-- A control register's place is at an offset below 0x400. -/
theorem controlPlace_of_placeOf {off : RegOffset} {p : Place} (h : placeOf off = p) (hp : p = .ctrl ∨ p = .status) :
    controlPlace off.toNat = p := by
  simp only [placeOf] at h
  rcases hp with rfl | rfl <;> split_ifs at h <;> assumption

theorem placeOf_eq_ctrl {off : RegOffset} (h : placeOf off = .ctrl) : off = 0x004 :=
  BitVec.eq_of_toNat_eq (controlPlace_eq_ctrl (controlPlace_of_placeOf h (.inl rfl)))

theorem placeOf_eq_status {off : RegOffset} (h : placeOf off = .status) : off = 0x00C :=
  BitVec.eq_of_toNat_eq (controlPlace_eq_status (controlPlace_of_placeOf h (.inr rfl)))

/-- The host clears OVR or TRUNC by a reset or by a write to STATUS, or not at all (R42, R43). -/
theorem hostAccess_sticky_cases (a : HostAccess) (s : State) :
    a = .powerReset ∨ (∃ v, a = .regWrite 0x004 v ∧ v.getLsbD 1 = true) ∨
      (∃ v, a = .regWrite 0x00C v ∧ (hostAccess a s).status = s.status.clearWritten v) ∨
      KeepsSticky s (hostAccess a s) := by
  cases a with
  | powerReset => exact .inl rfl
  | regWrite off v =>
    by_cases hstatus : placeOf off = .status
    · obtain rfl := placeOf_eq_status hstatus
      exact .inr (.inr (.inl ⟨v, rfl, rfl⟩))
    · by_cases hctrl : placeOf off = .ctrl → v.getLsbD 1 = false
      · exact .inr (.inr (.inr { writePlace_keepsSticky s v hctrl hstatus with }))
      · obtain ⟨hplace, hv⟩ := Classical.not_imp.1 hctrl
        obtain rfl := placeOf_eq_ctrl hplace
        exact .inr (.inl ⟨v, rfl, by simpa using hv⟩)
  | ibufWrite i b => exact .inr (.inr (.inr { ibufWrite_keepsSticky s i b with }))
  | regRead off => exact .inr (.inr (.inr ⟨id, id⟩))
  | ibufRead i => exact .inr (.inr (.inr ⟨id, id⟩))
  | obufRead i => exact .inr (.inr (.inr ⟨id, id⟩))

/-- What makes OVR or TRUNC fall in a host access: `flag` is one of the two, and `bit` its place in STATUS (R38). -/
theorem hostAccess_flag_falls {flag : Status → Bool} {bit : Nat}
    (hclear : ∀ t v, flag (t.clearWritten v) = (flag t && !v.getLsbD bit))
    (hkept : ∀ s t, KeepsSticky s t → flag s.status = true → flag t.status = true) {a : HostAccess} {s : State}
    (hs : flag s.status = true) (ht : flag (hostAccess a s).status = false) :
    a = .powerReset ∨ (∃ v, a = .regWrite 0x004 v ∧ v.getLsbD 1 = true) ∨
      ∃ v, a = .regWrite 0x00C v ∧ v.getLsbD bit = true := by
  rcases hostAccess_sticky_cases a s with ha | ha | ⟨v, ha, hv⟩ | k
  · exact .inl ha
  · exact .inr (.inl ha)
  · rw [hv, hclear, hs] at ht
    exact .inr (.inr ⟨v, ha, by simpa using ht⟩)
  · exact absurd (hkept _ _ k hs) (by simp [ht])

/-! ## The flags that each command's pseudocode changes -/

theorem countRun_status (s : State) :
    (countRun s).state.status = s.status ∨ (countRun s).state.status = s.status.freqChanged := by
  rcases countRun_cases s with ⟨-, h⟩ | ⟨-, h⟩ <;> rw [h]
  · exact .inl rfl
  · exact .inr rfl

theorem parseRun_status (s : State) :
    (parseRun s).state.status = s.status ∨ (parseRun s).state.status = s.status.freqChanged := by
  rcases parseRun_cases s with ⟨-, h⟩ | ⟨-, -, h⟩ | ⟨-, -, h⟩ <;> rw [h]
  · exact .inl rfl
  · exact .inl rfl
  · exact .inr rfl

theorem buildRun_status (s : State) : (buildRun s).state.status = s.status.treeBuilt := rfl

theorem deriveRun_status (s : State) :
    (deriveRun s).state.status = s.status ∨ (deriveRun s).state.status = s.status.bookDerived := by
  rcases deriveRun_cases s with ⟨-, h⟩ | ⟨-, h⟩ <;> rw [h]
  · exact .inl rfl
  · exact .inr rfl

theorem packRun_status (s : State) :
    (packRun s).state.status = s.status ∨ (packRun s).state.status = s.status.headerWritten s.freq := by
  rcases packRun_cases s with ⟨-, h⟩ | ⟨-, -, h⟩ | ⟨-, -, h⟩ <;> rw [h]
  · exact .inl rfl
  · exact .inl rfl
  · rcases packPayload_cases (packHeader s) with ⟨i, t, -, k⟩ | ⟨t, -, k⟩ <;> rw [k] <;> exact .inr rfl

theorem unpackRun_status (s : State) : (unpackRun s).state.status = s.status := by
  rcases unpackRun_cases s with ⟨-, h⟩ | ⟨-, -, h⟩ | ⟨-, -, -, h⟩ | ⟨-, -, -, -, h⟩ | ⟨-, -, -, -, h⟩ <;> rw [h]
  · rfl
  · rfl
  · rfl
  · rfl
  · rcases unpackPayload_cases s with ⟨-, k⟩ | ⟨-, k⟩ <;> rw [k]
    · rw [Run.state_raised]
    · rw [Run.state_finished]

theorem andThen_keeps {P : State → Prop} {r : Run} {f : State → Run} (h : P r.state)
    (k : ∀ u, P u → P (f u).state) : P (r.andThen f).state := by
  cases r with
  | finished s => exact k s h
  | raised op e info s => exact h

/-- TREE_VALID is set by BUILD alone (R44, R195). -/
theorem commandRun_treeValid_rises {i : Instr} {s : State} (h : s.status.treeValid = false)
    (ht : (commandRun i s).state.status.treeValid = true) : i = .build ∨ i = .compress ∨ i = .decompress := by
  cases i with
  | build => exact .inl rfl
  | compress => exact .inr (.inl rfl)
  | decompress => exact .inr (.inr rfl)
  | nop => simp [commandRun, h] at ht
  | count => rcases countRun_status s with k | k <;> simp [commandRun, k, h] at ht
  | derive => rcases deriveRun_status s with k | k <;> simp [commandRun, k, h] at ht
  | pack => rcases packRun_status s with k | k <;> simp [commandRun, k, h] at ht
  | parse => rcases parseRun_status s with k | k <;> simp [commandRun, k, h] at ht
  | unpack => simp [commandRun, unpackRun_status s, h] at ht

/-- CB_VALID is set by DERIVE alone, and DECOMPRESS has no DERIVE (R45, R214, R280). -/
theorem commandRun_cbValid_rises {i : Instr} {s : State} (h : s.status.cbValid = false)
    (ht : (commandRun i s).state.status.cbValid = true) : i = .derive ∨ i = .compress := by
  cases i with
  | derive => exact .inl rfl
  | compress => exact .inr rfl
  | nop => simp [commandRun, h] at ht
  | count => rcases countRun_status s with k | k <;> simp [commandRun, k, h] at ht
  | build => simp [commandRun, buildRun_status s] at ht
  | pack => rcases packRun_status s with k | k <;> simp [commandRun, k, h] at ht
  | parse => rcases parseRun_status s with k | k <;> simp [commandRun, k, h] at ht
  | unpack => simp [commandRun, unpackRun_status s, h] at ht
  | decompress =>
    have hparse : (parseRun s).state.status.cbValid = false := by
      rcases parseRun_status s with k | k <;> simp [k, h]
    have hkept : (decompressRun s).state.status.cbValid = false :=
      andThen_keeps (P := fun u => u.status.cbValid = false)
        (andThen_keeps (P := fun u => u.status.cbValid = false) hparse fun u _ => rfl)
        fun u hu => by rw [unpackRun_status, hu]
    simp [commandRun, hkept] at ht

/-! TRUNC is written by PACK alone, which never clears it (R229). -/

theorem countRun_trunc (s : State) : (countRun s).state.status.trunc = s.status.trunc := by
  rcases countRun_status s with k | k <;> simp [k]

theorem parseRun_trunc (s : State) : (parseRun s).state.status.trunc = s.status.trunc := by
  rcases parseRun_status s with k | k <;> simp [k]

theorem deriveRun_trunc (s : State) : (deriveRun s).state.status.trunc = s.status.trunc := by
  rcases deriveRun_status s with k | k <;> simp [k]

theorem packRun_trunc {s : State} (h : s.status.trunc = true) : (packRun s).state.status.trunc = true := by
  rcases packRun_status s with k | k <;> simp [k, h]

/-- The steps of DECOMPRESS leave TRUNC (R280). -/
theorem decompressRun_trunc (s : State) : (decompressRun s).state.status.trunc = s.status.trunc :=
  andThen_keeps (P := fun u => u.status.trunc = s.status.trunc)
    (andThen_keeps (P := fun u => u.status.trunc = s.status.trunc) (parseRun_trunc s) fun _ hu => hu)
    fun u hu => by rw [unpackRun_status, hu]

/-- The steps of COMPRESS before PACK leave TRUNC (R278). -/
theorem compressRun_trunc {s : State} (h : s.status.trunc = true) : (compressRun s).state.status.trunc = true :=
  andThen_keeps (P := fun u => u.status.trunc = true)
    (andThen_keeps (P := fun u => u.status.trunc = true)
      (andThen_keeps (P := fun u => u.status.trunc = true) ((countRun_trunc s).trans h) fun _ hu => hu)
      fun u hu => (deriveRun_trunc u).trans hu)
    fun _ hu => packRun_trunc hu

theorem commandRun_trunc_eq {i : Instr} (hpack : i ≠ .pack) (hcompress : i ≠ .compress) (s : State) :
    (commandRun i s).state.status.trunc = s.status.trunc := by
  cases i with
  | nop => rfl
  | count => exact countRun_trunc s
  | build => rfl
  | derive => exact deriveRun_trunc s
  | pack => exact absurd rfl hpack
  | parse => exact parseRun_trunc s
  | unpack => exact congrArg Status.trunc (unpackRun_status s)
  | compress => exact absurd rfl hcompress
  | decompress => exact decompressRun_trunc s

theorem commandRun_trunc_kept (i : Instr) {s : State} (h : s.status.trunc = true) :
    (commandRun i s).state.status.trunc = true := by
  by_cases hpack : i = .pack
  · subst hpack; exact packRun_trunc h
  · by_cases hcompress : i = .compress
    · subst hcompress; exact compressRun_trunc h
    · exact (commandRun_trunc_eq hpack hcompress s).trans h

/-- How a command ends touches nothing but the error record and BUSY, DONE and ERR (R165, R166). -/
theorem Run.conclude_frame (r : Run) : ∃ code info err,
    r.conclude = { r.state with
      errCode := code
      errInfo := info
      status := { r.state.status with busy := false, done := true, err := err } } := by
  cases r with
  | finished s => exact ⟨_, _, _, rfl⟩
  | raised op e info s => exact ⟨_, _, _, rfl⟩

@[simp] theorem Run.conclude_ovr (r : Run) : r.conclude.status.ovr = r.state.status.ovr := by cases r <;> rfl
@[simp] theorem Run.conclude_trunc (r : Run) : r.conclude.status.trunc = r.state.status.trunc := by cases r <;> rfl
@[simp] theorem Run.conclude_treeValid (r : Run) : r.conclude.status.treeValid = r.state.status.treeValid := by
  cases r <;> rfl
@[simp] theorem Run.conclude_cbValid (r : Run) : r.conclude.status.cbValid = r.state.status.cbValid := by
  cases r <;> rfl

/-! ## What an error leaves of OUT_LEN and BITCNT -/

theorem SameResult.trans {s t u : State} (h : SameResult s t) (k : SameResult t u) : SameResult s u :=
  ⟨k.outLen.trans h.outLen, k.bitCnt.trans h.bitCnt⟩

theorem andThen_sameResult {s : State} {r : Run} {f : State → Run} (h : SameResult s r.state)
    (k : ∀ u, SameResult u (f u).state) : SameResult s (r.andThen f).state :=
  andThen_keeps (P := SameResult s) h fun u hu => hu.trans (k u)

/-- A sequence of steps that raises leaves what its last step leaves when that one raises (R277). -/
theorem andThen_raised_sameResult {s u : State} {r : Run} {f : State → Run} (hr : SameResult s r.state)
    {op : Byte} {e : ErrorKind} {info : Word} (hf : ∀ {t}, f t = .raised op e info u → SameResult t u)
    (h : r.andThen f = .raised op e info u) : SameResult s u := by
  cases r with
  | finished t => exact hr.trans (hf h)
  | raised op' e' info' t =>
    injection h with _ _ _ ht
    exact ht ▸ hr

/-- No command that raises writes OUT_LEN or BITCNT (R166). -/
theorem commandRun_raised_sameResult {i : Instr} {s u : State} {op : Byte} {e : ErrorKind} {info : Word}
    (h : commandRun i s = .raised op e info u) : SameResult s u := by
  have hstate : (commandRun i s).state = u := by rw [h]; rfl
  cases i with
  | nop | count | build | derive | parse => exact hstate ▸ commandRun_sameResult rfl s
  | pack => exact packRun_raised_sameResult h
  | unpack => exact unpackRun_raised_sameResult h
  | compress =>
    refine andThen_raised_sameResult ?_ packRun_raised_sameResult h
    exact andThen_sameResult (andThen_sameResult (countRun_sameResult s) fun _ => ⟨rfl, rfl⟩) deriveRun_sameResult
  | decompress =>
    refine andThen_raised_sameResult ?_ unpackRun_raised_sameResult h
    exact andThen_sameResult (parseRun_sameResult s) fun _ => ⟨rfl, rfl⟩

/-- The command ends with ERR, or is no output command: OUT_LEN and BITCNT are as acceptance left them (R161, R166). -/
theorem conclude_sameResult {i : Instr} {s : State} (hclear : s.status.err = false)
    (h : (commandRun i s).conclude.status.err = true ∨ Instr.isOutput i = false) :
    SameResult s (commandRun i s).conclude := by
  rcases h with herr | hno
  · cases hr : commandRun i s with
    | finished u =>
      have hu : u.status.err = s.status.err := by simpa [hr] using (commandRun_sameHost i s).err
      simp [hr, hu, hclear] at herr
    | raised op e info u => exact { commandRun_raised_sameResult hr with }
  · obtain ⟨code, info, err, hend⟩ := (commandRun i s).conclude_frame
    rw [hend]
    exact { commandRun_sameResult hno s with }

/-! ## The words of the output commands (R121, R161) -/

theorem rsvdField_append_opcField (w : Word) : rsvdField w ++ opcField w = w := by
  have h : rsvdField w ++ opcField w = w.extractLsb' 0 32 :=
    BitVec.extractLsb'_append_extractLsb'_eq_extractLsb' (by omega)
  rw [h, BitVec.extractLsb'_eq_self]

theorem opcField_of_decode {w : Word} {i : Instr} (h : decode w = .legal i) : opcField w = i.opcode := by
  unfold decode at h
  split at h
  · cases h
  · refine BitVec.eq_of_toNat_eq ?_
    split at h <;> cases h <;> assumption

theorem rsvdField_of_decode {w : Word} {i : Instr} (h : decode w = .legal i) : rsvdField w = 0 := by
  unfold decode at h
  split at h
  · cases h
  · rename_i hr
    exact not_not.1 hr

/-- A word that decodes to a command is that command's word. -/
theorem encode_of_decode {w : Word} {i : Instr} (h : decode w = .legal i) : encode i = w := by
  rw [encode, ← opcField_of_decode h, ← rsvdField_of_decode h, rsvdField_append_opcField]

theorem clearsResult_iff (w : Word) : clearsResult w = true ↔ w ∈ [4#32, 6#32, 8#32, 9#32] := by
  constructor
  · intro h
    unfold clearsResult at h
    split at h
    · rename_i i hi
      rw [← encode_of_decode hi]
      revert h
      cases i <;> decide
    · cases h
  · intro h
    simp only [List.mem_cons, List.not_mem_nil, or_false] at h
    rcases h with rfl | rfl | rfl | rfl <;> decide

end Sys2Proof.Machine

namespace Sys2Proof.Proofs

open Sys2Proof.Machine Sys2Proof.Claims

/-- Settles O49: commands keep `SameHost`, their end touches none of it, and a host access no capacity. -/
theorem engineLeavesTheHostsState : Obligations.EngineLeavesTheHostsState := by
  unfold Obligations.EngineLeavesTheHostsState
  intro s t hst
  rcases step_cases hst with ⟨a, rest, ha, rfl⟩ | ⟨-, -, rfl⟩ | ⟨-, -, i, -, rfl⟩ | ⟨-, -, w, -, rfl⟩
  · obtain ⟨hibuf, hobuf, -, -, -⟩ := hostAccess_hostFrame a { s with turns := rest }
    exact ⟨hibuf, hobuf, fun hm => absurd ha (engineMoves_iff.1 hm a rest)⟩
  · exact ⟨rfl, rfl, fun _ => ⟨rfl, rfl, rfl, rfl, rfl, rfl, rfl, rfl⟩⟩
  · have h := commandRun_sameHost i { s with turns := s.turns.tail }
    obtain ⟨code, info, err, hend⟩ := (commandRun i { s with turns := s.turns.tail }).conclude_frame
    rw [hend]
    exact ⟨h.ibufSize, h.obufSize, fun _ =>
      ⟨h.ie, h.cmd, h.inLen, h.ibuf, h.ibufEpoch, h.obufEpoch, h.hostData, h.ovr⟩⟩
  · exact ⟨rfl, rfl, fun _ => ⟨rfl, rfl, rfl, rfl, rfl, rfl, rfl, rfl⟩⟩

/-- Settles O50: no host access and no end of a command sets a valid flag, and each is set by one step of a command. -/
theorem validFlagsRiseOnlyInBuildAndDerive : Obligations.ValidFlagsRiseOnlyInBuildAndDerive := by
  unfold Obligations.ValidFlagsRiseOnlyInBuildAndDerive
  intro s t hst
  rcases step_cases hst with ⟨a, rest, -, rfl⟩ | ⟨-, -, rfl⟩ | ⟨hm, hb, i, hi, rfl⟩ | ⟨-, -, w, -, rfl⟩
  · have h := hostAccess_hostFrame a { s with turns := rest }
    exact ⟨fun hs ht => absurd (h.treeValid ht) (by simp [hs]), fun hs ht => absurd (h.cbValid ht) (by simp [hs])⟩
  · exact ⟨fun hs ht => absurd ht (by simp [hs]), fun hs ht => absurd ht (by simp [hs])⟩
  · rw [Run.conclude_treeValid, Run.conclude_cbValid, hi]
    refine ⟨fun hs ht => ⟨hb, engineMoves_iff.2 hm, ?_⟩, fun hs ht => ⟨hb, engineMoves_iff.2 hm, ?_⟩⟩
    · simpa using commandRun_treeValid_rises (s := { s with turns := s.turns.tail }) hs ht
    · simpa using commandRun_cbValid_rises (s := { s with turns := s.turns.tail }) hs ht
  · exact ⟨fun hs ht => absurd ht (by simp [raiseIllegal, hs]), fun hs ht => absurd ht (by simp [raiseIllegal, hs])⟩

/-- Settles O51: `hostAccess_sticky_cases` for the host; a command keeps OVR, keeps TRUNC, and sets it only in PACK. -/
theorem stickyFlagsFallOnlyByTheHost : Obligations.StickyFlagsFallOnlyByTheHost := by
  unfold Obligations.StickyFlagsFallOnlyByTheHost
  intro s t hst
  rcases step_cases hst with ⟨a, rest, ha, rfl⟩ | ⟨-, -, rfl⟩ | ⟨hm, hb, i, hi, rfl⟩ | ⟨-, -, w, -, rfl⟩
  · have hframe := hostAccess_hostFrame a { s with turns := rest }
    rw [ha]
    refine ⟨fun hs ht => ⟨rest, ?_⟩, fun hs ht => ⟨rest, ?_⟩, fun hs ht => absurd (hframe.trunc ht) (by simp [hs])⟩
    · simpa using hostAccess_flag_falls (flag := Status.ovr) (fun _ _ => rfl) (fun _ _ k => k.ovr)
        (s := { s with turns := rest }) hs ht
    · simpa using hostAccess_flag_falls (flag := Status.trunc) (fun _ _ => rfl) (fun _ _ k => k.trunc)
        (s := { s with turns := rest }) hs ht
  · exact ⟨fun hs ht => absurd ht (by simp [hs]), fun hs ht => absurd ht (by simp [hs]),
      fun hs ht => absurd ht (by simp [hs])⟩
  · have hovr := (commandRun_sameHost i { s with turns := s.turns.tail }).ovr
    rw [Run.conclude_ovr, Run.conclude_trunc, hi]
    refine ⟨fun hs ht => ?_, fun hs ht => ?_, fun hs ht => ⟨hb, engineMoves_iff.2 hm, ?_⟩⟩
    · exact absurd (hovr.trans hs) (by simp [ht])
    · exact absurd (commandRun_trunc_kept i (s := { s with turns := s.turns.tail }) hs) (by simp [ht])
    · by_contra hne
      obtain ⟨hpack, hcompress⟩ := not_or.1 hne
      have hkept := commandRun_trunc_eq (i := i) (by simpa using hpack) (by simpa using hcompress)
        { s with turns := s.turns.tail }
      exact absurd (hkept.trans hs) (by simp [ht])
  · exact ⟨fun hs ht => absurd ht (by simp [raiseIllegal, hs]), fun hs ht => absurd ht (by simp [raiseIllegal, hs]),
      fun hs ht => absurd ht (by simp [raiseIllegal, hs])⟩

/-- Settles O55: BUSY = 1 for an output command means that both registers are 0, and what raises leaves them. -/
theorem errorsLeaveNoResult : Obligations.ErrorsLeaveNoResult := by
  unfold Obligations.ErrorsLeaveNoResult
  intro s hs hb hm
  obtain ⟨-, herr, -, -⟩ := hs.busyClean hb
  rcases step_cases (step_eq s) with ⟨a, rest, ha, -⟩ | ⟨-, hidle, -⟩ | ⟨-, -, i, hi, ht⟩ | ⟨-, -, w, hw, ht⟩
  · exact absurd ha (engineMoves_iff.1 hm a rest)
  · simp [hb] at hidle
  · have hdec : clearsResult s.cmd = Instr.isOutput i := by rw [clearsResult, hi]
    have hkept := conclude_sameResult (i := i) (s := { s with turns := s.turns.tail }) herr
    refine ⟨_, ht ▸ step_eq s, fun hout hend => ?_, fun hno => ?_⟩
    · obtain ⟨hlen, hcnt⟩ := hs.busyResult hb ((clearsResult_iff _).2 hout)
      obtain ⟨hlen', hcnt'⟩ := hkept (.inl hend)
      exact ⟨hlen'.trans hlen, hcnt'.trans hcnt⟩
    · obtain ⟨hlen, hcnt⟩ := hkept (.inr (hdec ▸ Bool.eq_false_iff.2 (mt (clearsResult_iff _).1 hno)))
      exact ⟨hlen, hcnt⟩
  · exact ⟨raiseIllegal { s with turns := s.turns.tail }, ht ▸ step_eq s,
      fun hout _ => hs.busyResult hb ((clearsResult_iff _).2 hout), fun _ => ⟨rfl, rfl⟩⟩

end Sys2Proof.Proofs

/-! # The host's buffer accesses when idle (R95 to R97) -/

namespace Sys2Proof.Machine

theorem State.ibufRead_idle {s : State} (h : s.status.busy = false) (i : Word) :
    s.ibufRead i = if i.toNat < s.ibufSize.toNat then s.ibufAt i.toNat else 0 := by
  simp [State.ibufRead, h, BitVec.lt_def]

theorem State.obufRead_idle {s : State} (h : s.status.busy = false) (i : Word) :
    s.obufRead i = if i.toNat < s.obufSize.toNat then s.obufAt i.toNat else 0 := by
  simp [State.obufRead, h, BitVec.lt_def]

theorem State.ibufWrite_idle_inRange {s : State} (h : s.status.busy = false) {i : Word}
    (hi : i.toNat < s.ibufSize.toNat) (b : Byte) :
    s.ibufWrite i b = { s with ibuf := s.ibuf.write i.toNat b } := by
  rw [State.ibufWrite, State.locked_idle h, if_pos (BitVec.lt_def.2 hi)]

theorem State.ibufWrite_idle_outOfRange {s : State} (h : s.status.busy = false) {i : Word}
    (hi : ¬ i.toNat < s.ibufSize.toNat) (b : Byte) : s.ibufWrite i b = s := by
  rw [State.ibufWrite, State.locked_idle h, if_neg (mt BitVec.lt_def.1 hi)]

/-- A written byte is read at its own index, and every other index reads as before, listed or not. -/
theorem State.ibufAt_write (s : State) (i : Nat) (b : Byte) (j : Nat) :
    ({ s with ibuf := s.ibuf.write i b } : State).ibufAt j = if j = i then b else s.ibufAt j := by
  by_cases hj : j = i
  · simp [State.ibufAt, hj]
  · simp [State.ibufAt, hj, Ne.symm hj]

end Sys2Proof.Machine

namespace Sys2Proof.Proofs

open Sys2Proof.Machine

/-- Settles O46: the two reads answer by R95 and R97; a write is read after write in range, and the identity out of
range. -/
theorem bufferAccessesWhenIdle : Obligations.BufferAccessesWhenIdle := by
  unfold Obligations.BufferAccessesWhenIdle
  intro s a rest h hidle
  refine ⟨?ibufRead, ?obufRead, ?ibufWrite⟩
  case ibufRead =>
    rintro i rfl
    rw [step_host h, ← State.ibufRead_idle hidle]
    rfl
  case obufRead =>
    rintro i rfl
    rw [step_host h, ← State.obufRead_idle hidle]
    rfl
  case ibufWrite =>
    rintro i b rfl
    have hidle' : ({ s with turns := rest } : State).status.busy = false := hidle
    rw [step_host h, hostAccess]
    by_cases hi : i.toNat < s.ibufSize.toNat
    · rw [State.ibufWrite_idle_inRange hidle' hi]
      exact ⟨_, rfl, fun j => (State.ibufAt_write s i.toNat b j).trans (by simp [hi]), rfl⟩
    · rw [State.ibufWrite_idle_outOfRange hidle' hi]
      exact ⟨_, rfl, fun j => by simp [hi, State.ibufAt], rfl⟩

end Sys2Proof.Proofs

/-! # The opcode map: decoding and encoding agree (R120 to R124) -/

namespace Sys2Proof

open Sys2Proof.Machine

theorem decode_encode (i : Instr) : decode (encode i) = .legal i := by
  cases i <;> rfl

/-- The encoder and the decoder are inverse to each other on legal words (R121, R124). -/
theorem decode_eq_legal_iff {w : Word} {i : Instr} : decode w = .legal i ↔ w = encode i := by
  constructor
  · intro h
    exact (encode_of_decode h).symm
  · rintro rfl
    exact decode_encode i

/-- The decoder's two answers exclude each other and leave no third. -/
theorem exists_decode_eq_illegal_iff {w : Word} : (∃ why, decode w = .illegal why) ↔ ∀ i, decode w ≠ .legal i := by
  cases decode w <;> simp

theorem wordForm (i : Instr) : Laws.WordForm.Statement i := by
  cases i
  exacts [Laws.WordForm.nop, Laws.WordForm.count, Laws.WordForm.build, Laws.WordForm.derive, Laws.WordForm.pack,
    Laws.WordForm.parse, Laws.WordForm.unpack, Laws.WordForm.compress, Laws.WordForm.decompress]

/-- The opcode check passes only on the opcodes of R121. -/
theorem exists_opcode_of_opcodeAssigned {w : Word} (h : CommandWord.opcodeAssigned w = true) :
    ∃ i : Instr, opcField w = i.opcode := by
  rw [CommandWord.opcodeAssigned, List.contains_iff_mem, ← opcField] at h
  simp only [List.mem_cons, List.not_mem_nil, or_false] at h
  rcases h with h | h | h | h | h | h | h | h | h
  exacts [⟨.nop, h⟩, ⟨.count, h⟩, ⟨.build, h⟩, ⟨.derive, h⟩, ⟨.pack, h⟩, ⟨.parse, h⟩, ⟨.unpack, h⟩, ⟨.compress, h⟩,
    ⟨.decompress, h⟩]

/-- The two checks of a command word accept exactly the encoder's words (R120 to R122). -/
theorem wf_iff_exists_encode {w : Word} : CommandWord.wf w = true ↔ ∃ i : Instr, w = encode i := by
  constructor
  · intro h
    obtain ⟨hreserved, hopcode⟩ := Bool.and_eq_true_iff.1 h
    have hrsvd : rsvdField w = 0 := beq_iff_eq.1 hreserved
    obtain ⟨i, hi⟩ := exists_opcode_of_opcodeAssigned hopcode
    exact ⟨i, by rw [encode, ← hrsvd, ← hi, rsvdField_append_opcField]⟩
  · rintro ⟨i, rfl⟩
    exact (wordForm i).1

theorem decode_of_reservedBitsSet {w : Word} (h : rsvdField w ≠ 0) : decode w = .illegal .reservedBitsSet := by
  rw [decode, if_pos h]

end Sys2Proof

namespace Sys2Proof.Proofs

/-- Settles O2: the encoder inverts the decoder on legal words, and both checks pass on the encoder's words only. -/
theorem decodeAndEncodeAgree : Obligations.DecodeAndEncodeAgree := by
  unfold Obligations.DecodeAndEncodeAgree
  refine ⟨fun i _ => decode_encode i, fun w i h => (decode_eq_legal_iff.1 h).symm, fun w => ?_⟩
  calc CommandWord.wf w = false
      ↔ ¬ ∃ i, w = encode i := by rw [← wf_iff_exists_encode, Bool.not_eq_true]
    _ ↔ ∀ i, decode w ≠ .legal i := by simp only [decode_eq_legal_iff, not_exists, ne_eq]
    _ ↔ ∃ why, decode w = .illegal why := exists_decode_eq_illegal_iff.symm

/-- Settles O1: a word decodes to `i` exactly when it is `encode i`, and the nine pairs are those of the encoder. -/
theorem nineWordsAreTheCommands : Obligations.NineWordsAreTheCommands := by
  unfold Obligations.NineWordsAreTheCommands
  intro w i
  rw [decode_eq_legal_iff]
  cases i <;> simp [encode, Instr.opcode]

/-- Settles O3: the legal words are the encoder's words, and the other two fail one check each. -/
theorem writtenWordsDecode : Obligations.WrittenWordsDecode := by
  unfold Obligations.WrittenWordsDecode
  exact ⟨decode_encode .count, decode_encode .derive, decode_encode .unpack, decode_encode .decompress, by decide,
    decode_of_reservedBitsSet (by decide)⟩

end Sys2Proof.Proofs

/-! # The NODE and CB windows when idle (R58, R61, R136, R137) -/

namespace Sys2Proof.Machine

/-- Word w of node n's window stands at 0x2000 + 16*n + 4*w (R32, R136). -/
theorem placeOf_nodeWord {off : RegOffset} {n : NodeIndex} {w : BitVec 2} (hn : n.toNat ≤ 510)
    (h : off.toNat = 0x2000 + 16 * n.toNat + 4 * w.toNat) : placeOf off = .nodeWord n w := by
  have hw := w.isLt
  have hnode : BitVec.ofNat 9 ((off.toNat - 0x2000) / 16) = n :=
    BitVec.eq_of_toNat_eq (by rw [BitVec.toNat_ofNat]; omega)
  have hword : BitVec.ofNat 2 (off.toNat / 4) = w := BitVec.eq_of_toNat_eq (by rw [BitVec.toNat_ofNat]; omega)
  simp only [placeOf]
  rw [if_neg (by omega), if_neg (by omega), if_neg (by omega), if_neg (by omega), if_pos (by omega), hnode, hword]

/-- Word w of symbol k's window stands at 0x4000 + 64*k + 4*w (R32, R137). -/
theorem placeOf_cbWord {off : RegOffset} {k : Byte} {w : BitVec 4}
    (h : off.toNat = 0x4000 + 64 * k.toNat + 4 * w.toNat) : placeOf off = .cbWord k w := by
  have hw := w.isLt
  have hk := k.isLt
  have hsymbol : BitVec.ofNat 8 ((off.toNat - 0x4000) / 64) = k :=
    BitVec.eq_of_toNat_eq (by rw [BitVec.toNat_ofNat]; omega)
  have hword : BitVec.ofNat 4 (off.toNat / 4) = w := BitVec.eq_of_toNat_eq (by rw [BitVec.toNat_ofNat]; omega)
  simp only [placeOf]
  rw [if_neg (by omega), if_neg (by omega), if_neg (by omega), if_neg (by omega), if_neg (by omega),
    if_neg (by omega), hsymbol, hword]

/-! ## The NODE window's words (R136) -/

/-- Word 0 of an internal node: INTERNAL in bit 31, RIGHT in bits 24..16, LEFT in bits 8..0 (R136). -/
def linksWord (left right : NodeIndex) : Word :=
  (1 : BitVec 1) ++ (0 : BitVec 6) ++ right ++ (0 : BitVec 7) ++ left

section
variable (left right : NodeIndex)

theorem linksWord_left : (linksWord left right).extractLsb' 0 9 = left :=
  BitVec.extractLsb'_append_eq_right

theorem linksWord_belowRight : (linksWord left right).extractLsb' 9 7 = 0 :=
  (BitVec.extractLsb'_append_eq_of_le le_rfl).trans BitVec.extractLsb'_append_eq_right

theorem linksWord_right : (linksWord left right).extractLsb' 16 9 = right := by
  unfold linksWord
  rw [BitVec.extractLsb'_append_eq_of_le (by omega), BitVec.extractLsb'_append_eq_of_le (by omega)]
  exact BitVec.extractLsb'_append_eq_right

theorem linksWord_aboveRight : (linksWord left right).extractLsb' 25 6 = 0 := by
  unfold linksWord
  rw [BitVec.extractLsb'_append_eq_of_le (by omega), BitVec.extractLsb'_append_eq_of_le (by omega),
    BitVec.extractLsb'_append_eq_of_le (by omega)]
  exact BitVec.extractLsb'_append_eq_right

theorem linksWord_internal : (linksWord left right).getLsbD 31 = true := by
  change BitVec.getLsbD (w := 1 + 6 + 9 + 7 + 9) _ 31 = _
  simp only [linksWord, BitVec.getLsbD_append]
  rfl

end

section
variable (tree : Vector Node 511) {n : NodeIndex}

theorem nodeWindow_links_leaf (h : n.toNat < 256) : nodeWindow tree n 0 = 0 := by
  simp [nodeWindow, leafCount, h]

theorem nodeWindow_links_internal (h : ¬ n.toNat < 256) :
    nodeWindow tree n 0 = linksWord (nodeAt tree n).left (nodeAt tree n).right := by
  simp [nodeWindow, leafCount, h, linksWord]

theorem nodeWindow_symbol (n : NodeIndex) :
    (nodeWindow tree n 1).toNat = if n.toNat < 256 then n.toNat else 0 := by
  have hn := n.isLt
  by_cases h : n.toNat < 256
  · simp [nodeWindow, leafCount, h]
    omega
  · simp [nodeWindow, leafCount, h]

theorem nodeWindow_weightLow (n : NodeIndex) :
    (nodeWindow tree n 2).toNat = (nodeAt tree n).weight.toNat % 2 ^ 32 :=
  BitVec.extractLsb'_toNat 0 32 (nodeAt tree n).weight

/-- A weight has 40 bits, so the 8 bits of w3 are all that w2 leaves out. -/
theorem nodeWindow_weightHigh (n : NodeIndex) :
    (nodeWindow tree n 3).toNat = (nodeAt tree n).weight.toNat / 2 ^ 32 := by
  have hweight := (nodeAt tree n).weight.isLt
  have hword : nodeWindow tree n 3 = ((nodeAt tree n).weight.extractLsb' 32 8).setWidth 32 := rfl
  rw [hword, BitVec.toNat_setWidth, BitVec.extractLsb'_toNat, Nat.shiftRight_eq_div_pow]
  omega

end

/-! ## The CB window's words (R137) -/

section
variable (cb : Vector Code 256) (k : Byte)

theorem cbWindow_length : (cbWindow cb k 0).toNat = (atSymbol cb k).len.toNat := by
  have hlen := (atSymbol cb k).len.isLt
  have hword : cbWindow cb k 0 = (atSymbol cb k).len.setWidth 32 := rfl
  rw [hword, BitVec.toNat_setWidth]
  omega

theorem cbWindow_bits {w : BitVec 4} (hlow : 1 ≤ w.toNat) (hhigh : w.toNat ≤ 8) {b : Nat} (hb : b < 32) :
    (cbWindow cb k w).getLsbD b = (atSymbol cb k).bits.getLsbD (32 * (w.toNat - 1) + b) := by
  simp only [cbWindow]
  rw [if_neg (by omega), if_pos hhigh, BitVec.getLsbD_extractLsb', decide_eq_true hb, Bool.true_and]

theorem cbWindow_unused {w : BitVec 4} (h : 9 ≤ w.toNat) : cbWindow cb k w = 0 := by
  simp only [cbWindow]
  rw [if_neg (by omega), if_neg (by omega)]

end

/-! ## What an idle read returns (R58, R61) -/

section
variable {s : State} (hidle : s.status.busy = false) {off : RegOffset}
include hidle

theorem regRead_nodeWord {n : NodeIndex} {w : BitVec 2} (hoff : placeOf off = .nodeWord n w) :
    s.regRead off = if s.status.treeValid then nodeWindow s.node n w else 0 := by
  rw [State.regRead, hoff, State.readPlace, State.whenIdle_idle hidle]

theorem regRead_cbWord {k : Byte} {w : BitVec 4} (hoff : placeOf off = .cbWord k w) :
    s.regRead off = if s.status.cbValid then cbWindow s.cb k w else 0 := by
  rw [State.regRead, hoff, State.readPlace, State.whenIdle_idle hidle]

end

end Sys2Proof.Machine

namespace Sys2Proof.Proofs

open Sys2Proof.Machine

/-- Settles O44: the offset is word w of node n, and each of the four words has its layout lemma. -/
theorem nodeWindowLayout : Obligations.NodeWindowLayout := by
  unfold Obligations.NodeWindowLayout
  intro s n w off rest hn hoff h hidle
  have hread := regRead_nodeWord hidle (placeOf_nodeWord hn hoff)
  refine ⟨s.regRead off, step_host h, fun hinvalid => by simp [hread, hinvalid], fun hvalid => ?_⟩
  rw [hread, if_pos hvalid]
  refine ⟨?links, ?symbol, ?weightLow, ?weightHigh⟩
  all_goals rintro rfl
  case links =>
    by_cases hleaf : n.toNat < 256
    · rw [nodeWindow_links_leaf s.node hleaf]
      simp [hleaf]
    · have hinternal : 256 ≤ n.toNat := Nat.not_lt.1 hleaf
      rw [nodeWindow_links_internal s.node hleaf, if_pos hinternal, if_pos hinternal, decide_eq_true hinternal]
      exact ⟨linksWord_internal _ _, linksWord_aboveRight _ _, linksWord_belowRight _ _, linksWord_right _ _,
        linksWord_left _ _⟩
  case symbol => exact nodeWindow_symbol s.node n
  case weightLow => exact nodeWindow_weightLow s.node n
  case weightHigh => exact nodeWindow_weightHigh s.node n

/-- Settles O45: the offset is word w of symbol k, whose words are the length, the code bits, and 0 from w9 on. -/
theorem codeBookWindowLayout : Obligations.CodeBookWindowLayout := by
  unfold Obligations.CodeBookWindowLayout
  intro s k w off rest hoff h hidle
  have hread := regRead_cbWord hidle (placeOf_cbWord hoff)
  refine ⟨s.regRead off, step_host h, fun hinvalid => by simp [hread, hinvalid], fun hvalid => ?_⟩
  rw [hread, if_pos hvalid]
  refine ⟨?length, fun hlow hhigh b hb => cbWindow_bits s.cb k hlow hhigh hb, cbWindow_unused s.cb k⟩
  case length =>
    rintro rfl
    exact cbWindow_length s.cb k

end Sys2Proof.Proofs

/-! # The command protocol: the engine's turn, and the host's accesses while a command runs (R160 to R170) -/

namespace Sys2Proof.Machine

open Sys2Proof.Claims

/-! ## The engine's turn -/

/-- When the engine moves, its turn is taken off the list, if the list still holds one (R360). -/
theorem step_engineMoves {s : State} (h : engineMoves s) : step s = engineTurn (turnTaken s) := by
  rcases h with h | ⟨rest, h⟩
  · have hkept : turnTaken s = s := by rw [turnTaken, h, List.tail_nil, ← h]
    rw [hkept, step, h]
  · rw [step, h, turnTaken, h, List.tail_cons]

theorem engineTurn_idle {s : State} (h : s.status.busy = false) : engineTurn s = .next s := by
  simp [engineTurn, h]

section
variable {s : State} (hb : s.status.busy = true)
include hb

theorem engineTurn_legal {i : Instr} (hi : decode s.cmd = .legal i) : engineTurn s = exec i s := by
  rw [engineTurn, if_pos hb, hi]

theorem engineTurn_illegal {why : IllegalWord} (hw : decode s.cmd = .illegal why) :
    engineTurn s = .next (raiseIllegal s) := by
  rw [engineTurn, if_pos hb, hw]

end

/-- What the accepted word's execution comes to: an illegal word is a command that only raises (R162, R167). -/
def acceptedRun (s : State) : Run :=
  match decode s.cmd with
  | .legal i => commandRun i s
  | .illegal _ => .raised (opcField s.cmd) .illegalCmd 0 s

theorem acceptedRun_sameHost (s : State) : SameHost s (acceptedRun s).state := by
  unfold acceptedRun
  split
  · exact commandRun_sameHost _ s
  · exact .rfl

theorem acceptedRun_sound {s : State} (h : s.Contents) : (acceptedRun s).Sound := by
  unfold acceptedRun
  split
  · exact commandRun_sound _ h
  · exact ⟨by simp, h⟩

/-- A busy engine's turn runs the accepted word to its end. -/
theorem engineTurn_busy {s : State} (hb : s.status.busy = true) : engineTurn s = .next (acceptedRun s).conclude := by
  unfold acceptedRun
  cases hd : decode s.cmd with
  | legal i => rw [engineTurn_legal hb hd, exec_eq]
  | illegal why => rw [engineTurn_illegal hb hd]; rfl

theorem step_busy_engineMoves {s : State} (hb : s.status.busy = true) (hm : engineMoves s) :
    step s = .next (acceptedRun (turnTaken s)).conclude := by
  rw [step_engineMoves hm, engineTurn_busy (s := turnTaken s) hb]

/-! ## How a command ends -/

@[simp] theorem Run.conclude_busy (r : Run) : r.conclude.status.busy = false := by cases r <;> rfl
@[simp] theorem Run.conclude_done (r : Run) : r.conclude.status.done = true := by cases r <;> rfl
@[simp] theorem Run.conclude_turns (r : Run) : r.conclude.turns = r.state.turns := by cases r <;> rfl

/-- Completion leaves ERR and the record clear, and the error exit sets both (R165, R166). -/
theorem Run.Sound.conclude_err_iff {r : Run} (h : r.Sound) (hrec : r.state.RecordClear) :
    r.conclude.status.err = true ↔ r.conclude.errCode.code ≠ .none := by
  cases r with
  | finished s =>
    have herr : s.status.err = false := hrec.err
    have hcode : s.errCode = ⟨.none, 0⟩ := hrec.errCode
    simp [herr, hcode]
  | raised op e info s => simpa using h.1

/-! ## A running command ends (R360) -/

theorem State.locked_turns {s : State} {idle : State → State} (h : (idle s).turns = s.turns) :
    (s.locked idle).turns = s.turns :=
  State.locked_induction (P := fun t => t.turns = s.turns) rfl h

theorem writePlace_turns (s : State) (v : Word) (p : Place) : (s.writePlace v p).turns = s.turns := by
  cases p with
  | ctrl => rw [State.writePlace, State.writeCtrl]; split <;> rfl
  | cmd | inLen | expLen | freq => exact State.locked_turns rfl
  | _ => rfl

theorem ibufWrite_turns (s : State) (i : Word) (b : Byte) : (s.ibufWrite i b).turns = s.turns := by
  refine State.locked_turns ?_
  split <;> rfl

/-- No host access takes a turn or adds one. -/
theorem hostAccess_turns (a : HostAccess) (s : State) : (hostAccess a s).turns = s.turns := by
  cases a with
  | regWrite off v => exact writePlace_turns s v (placeOf off)
  | ibufWrite i b => exact ibufWrite_turns s i b
  | regRead | ibufRead | obufRead | powerReset => rfl

theorem run_succ_of_step {M : Host.Core} {s t : M.State} (h : M.step s = .next t) (k : Nat) :
    M.run (k + 1) s = M.run k t := by
  rw [Host.Core.run, h]

/-- The measure is the list of turns: each host turn shortens it, and the engine's first turn ends the command. -/
theorem exists_run_idle {s : State} (hb : s.status.busy = true) :
    ∃ k, k ≤ s.turns.length + 1 ∧ ∃ t : State, core.run k s = .next t ∧ t.status.busy = false := by
  have hengine : ∀ u : State, u.status.busy = true → engineMoves u →
      ∃ t : State, core.run 1 u = .next t ∧ t.status.busy = false := fun u hu hm =>
    ⟨_, run_succ_of_step (M := core) (step_busy_engineMoves hu hm) 0, Run.conclude_busy _⟩
  generalize hts : s.turns = ts
  induction ts generalizing s with
  | nil => exact ⟨1, by simp, hengine s hb (.inl hts)⟩
  | cons turn rest ih =>
    cases turn with
    | engine => exact ⟨1, by simp, hengine s hb (.inr ⟨rest, hts⟩)⟩
    | host a =>
      have hrun := run_succ_of_step (M := core) (step_host hts)
      cases hidle : (hostAccess a { s with turns := rest }).status.busy with
      | false => exact ⟨1, by simp, _, hrun 0, hidle⟩
      | true =>
        obtain ⟨k, hk, hend⟩ := ih hidle (hostAccess_turns a _)
        exact ⟨k + 1, by simpa using hk, by rwa [hrun k]⟩

/-! ## Locked writes while a command runs (R163) -/

theorem State.locked_busy {s : State} (h : s.status.busy = true) (idle : State → State) :
    s.locked idle = { s with status := s.status.markOverrun } := by
  rw [State.locked, if_pos h]

theorem writePlace_locked_busy {s : State} (hb : s.status.busy = true) (v : Word) {p : Place}
    (hp : p.isLocked = true) : s.writePlace v p = { s with status := s.status.markOverrun } := by
  cases p with
  | cmd | inLen | expLen | freq => rw [State.writePlace, State.locked_busy hb]
  | _ => cases hp

theorem hostAccess_lockedWrite_busy {s : State} (hb : s.status.busy = true) {a : HostAccess}
    (ha : a.isLockedWrite = true) :
    hostAccess a s = { s with status := s.status.markOverrun, hostData := .nothing } := by
  cases a with
  | regWrite off v => rw [hostAccess, State.regWrite, writePlace_locked_busy hb v ha]
  | ibufWrite i b => rw [hostAccess, State.ibufWrite, State.locked_busy hb]
  | regRead | ibufRead | obufRead | powerReset => cases ha

/-- The whole effect of a locked write made while BUSY = 1 is OVR. -/
theorem step_lockedWrite_busy {s : State} {a : HostAccess} {rest : List Turn} (h : s.turns = .host a :: rest)
    (hb : s.status.busy = true) (ha : a.isLockedWrite = true) :
    step s = .next { s with turns := rest, hostData := .nothing, status := { s.status with ovr := true } } := by
  rw [step_host h, hostAccess_lockedWrite_busy (s := { s with turns := rest }) hb ha]
  rfl

theorem ite_clearsResult {α : Type} (w : Word) (x y : α) :
    (if clearsResult w then x else y) = if w = 4 ∨ w = 6 ∨ w = 8 ∨ w = 9 then x else y :=
  if_congr ((clearsResult_iff w).trans (by simp)) rfl rfl

/-! ## Reads while a command runs (R164) -/

theorem State.whenIdle_busy {s : State} (h : s.status.busy = true) (v : Word) : s.whenIdle v = 0 := by
  rw [State.whenIdle, if_pos h]

theorem readPlace_blank_busy {s : State} (hb : s.status.busy = true) {p : Place} (hp : p.isBlank = true) :
    s.readPlace p = 0 := by
  cases p with
  | errCode | errInfo | expLen | outLen | bitCntLo | bitCntHi | freq | nodeWord | cbWord =>
    exact State.whenIdle_busy hb _
  | _ => cases hp

/-- The registers below 0x400 other than the seven that R164 names. -/
theorem controlPlace_reserved_or_blank {a : Nat} (h : a ∉ [0x000, 0x004, 0x008, 0x00C, 0x018, 0x02C, 0x030]) :
    controlPlace a = .reserved ∨ (controlPlace a).isBlank = true := by
  unfold controlPlace
  split <;> simp_all [Place.isBlank]

/-- From 0x400 on there are FREQ, the windows and reserved offsets only (R32). -/
theorem placeOf_reserved_or_blank {off : RegOffset} (haligned : off.toNat % 4 = 0) (h : 0x400 ≤ off.toNat) :
    placeOf off = .reserved ∨ (placeOf off).isBlank = true := by
  simp only [placeOf]
  rw [if_neg (not_not.2 haligned), if_neg (Nat.not_lt.2 h)]
  split
  · exact .inr rfl
  · split
    · exact .inl rfl
    · split
      · exact .inr rfl
      · split
        · exact .inl rfl
        · exact .inr rfl

theorem regRead_busy_eq_zero {s : State} (hb : s.status.busy = true) {off : RegOffset}
    (h : off.toNat ∉ [0x000, 0x004, 0x008, 0x00C, 0x018, 0x02C, 0x030]) : s.regRead off = 0 := by
  rw [State.regRead]
  by_cases haligned : off.toNat % 4 = 0
  · have hplace : placeOf off = .reserved ∨ (placeOf off).isBlank = true := by
      by_cases hcontrol : off.toNat < 0x400
      · rw [placeOf_control haligned hcontrol]
        exact controlPlace_reserved_or_blank h
      · exact placeOf_reserved_or_blank haligned (Nat.not_lt.1 hcontrol)
    rcases hplace with hreserved | hblank
    · rw [hreserved, State.readPlace]
    · exact readPlace_blank_busy hb hblank
  · rw [placeOf_misaligned haligned, State.readPlace]

theorem toNat_ctrlWord (ie : Bool) : (ctrlWord ie).toNat = ie.toNat := by cases ie <;> rfl

theorem State.ibufRead_busy {s : State} (h : s.status.busy = true) (i : Word) : s.ibufRead i = 0 := by
  rw [State.ibufRead, if_pos h]

theorem State.obufRead_busy {s : State} (h : s.status.busy = true) (i : Word) : s.obufRead i = 0 := by
  rw [State.obufRead, if_pos h]

end Sys2Proof.Machine

namespace Sys2Proof.Proofs

open Sys2Proof.Machine Sys2Proof.Claims

/-- Settles O7: idle, the write is `accept`, whose clearing test picks the four words; busy, CMD is locked. -/
theorem cmdWriteIsAcceptedWhenIdle : Obligations.CmdWriteIsAcceptedWhenIdle := by
  unfold Obligations.CmdWriteIsAcceptedWhenIdle
  intro s w rest h
  refine ⟨fun hidle => ?_, fun hb => step_lockedWrite_busy h hb rfl⟩
  rw [step_regWrite (p := .cmd) h rfl, State.writePlace, State.locked_idle (s := { s with turns := rest }) hidle,
    ← ite_clearsResult, ← ite_clearsResult]
  rfl

/-- Settles O8: the accepted word's run starts with a clear record, so that ERR and ERRCODE are set by its end alone. -/
theorem engineTurnEndsTheCommand : Obligations.EngineTurnEndsTheCommand := by
  unfold Obligations.EngineTurnEndsTheCommand
  intro s hs hb hm
  have hhost := acceptedRun_sameHost (turnTaken s)
  have hrec := hhost.recordClear (State.Protocol.recordClear (hs.withTurns s.turns.tail).protocol hb)
  have hsound := acceptedRun_sound (hs.withTurns s.turns.tail).contents
  exact ⟨_, step_busy_engineMoves hb hm, Run.conclude_busy _, Run.conclude_done _, hsound.conclude_err_iff hrec,
    (Run.conclude_turns _).trans hhost.turns⟩

/-- Settles O9: `exists_run_idle`, by induction on the turns that are left. -/
theorem busyEnds : Obligations.BusyEnds := by
  unfold Obligations.BusyEnds
  exact fun s hb => exists_run_idle hb

/-- Settles O43: a read answers `State.regRead`; the seven offsets name their registers, every other reads 0. -/
theorem resultsReadZeroWhileBusy : Obligations.ResultsReadZeroWhileBusy := by
  unfold Obligations.ResultsReadZeroWhileBusy
  intro s a rest h hb
  refine ⟨?registers, ?buffers⟩
  case registers =>
    rintro off rfl
    refine ⟨s.regRead off, step_host h, ?id, ?ctrl, ?cmd, ?status, ?inLen, ?ibufSize, ?obufSize, ?zero⟩
    case zero => exact fun hoff => regRead_busy_eq_zero hb (by simpa [← BitVec.toNat_inj] using hoff)
    all_goals rintro rfl
    case ctrl => exact toNat_ctrlWord s.ie
    case status => exact ⟨rfl, (s.status.getLsbD_word 0).trans hb⟩
    case id | cmd | inLen | ibufSize | obufSize => rfl
  case buffers =>
    rintro i (rfl | rfl)
    · rw [step_host h, hostAccess, State.ibufRead_busy (s := { s with turns := rest }) hb]
    · rw [step_host h, hostAccess, State.obufRead_busy (s := { s with turns := rest }) hb]

/-- Settles O4: taking the turn touches neither BUSY nor CMD. -/
theorem stepRunsTheAcceptedCommand : Obligations.StepRunsTheAcceptedCommand := by
  unfold Obligations.StepRunsTheAcceptedCommand
  intro s i hb hi hm
  rw [step_engineMoves hm, engineTurn_legal (s := turnTaken s) hb hi]

/-- Settles O5: `raiseIllegal` is the error record of R166 with OP = CMD[7:0]. -/
theorem illegalWordRaises : Obligations.IllegalWordRaises := by
  unfold Obligations.IllegalWordRaises
  refine ⟨rfl, fun s why hb hw hm => ?_⟩
  rw [step_engineMoves hm, engineTurn_illegal (s := turnTaken s) hb hw]
  rfl

/-- Settles O6: the step is the turn of an idle engine. -/
theorem idleEngineDoesNothing : Obligations.IdleEngineDoesNothing := by
  unfold Obligations.IdleEngineDoesNothing
  intro s hidle hm
  rw [step_engineMoves hm, engineTurn_idle (s := turnTaken s) hidle]

/-- Settles O36: the four kinds of write are locked ones; an idle write to IN_LEN or EXP_LEN is made. -/
theorem lockedWritesAreDroppedWhileBusy : Obligations.LockedWritesAreDroppedWhileBusy := by
  unfold Obligations.LockedWritesAreDroppedWhileBusy
  intro s a rest h
  refine ⟨fun hb ha => step_lockedWrite_busy h hb ?_, fun hidle v => ⟨?inLen, ?expLen⟩⟩
  · rcases ha with ⟨v, rfl⟩ | ⟨v, rfl⟩ | ⟨off, v, k, rfl, hoff⟩ | ⟨i, b, rfl⟩
    · rfl
    · rfl
    · rw [HostAccess.isLockedWrite, placeOf_freq hoff]; rfl
    · rfl
  case inLen =>
    rintro rfl
    rw [step_regWrite (p := .inLen) h rfl, State.writePlace, State.locked_idle (s := { s with turns := rest }) hidle]
  case expLen =>
    rintro rfl
    rw [step_regWrite (p := .expLen) h rfl, State.writePlace, State.locked_idle (s := { s with turns := rest }) hidle]

end Sys2Proof.Proofs

/-! # Counting the input's symbols (R181 to R183) -/

namespace Sys2Proof.Machine

/-! ## What the counters hold -/

/-- Counting a sequence adds its number of occurrences to each symbol's counter, modulo 2^32. -/
theorem atSymbol_foldl_countSymbol (data : List Byte) (f : Vector Word 256) (k : Byte) :
    atSymbol (data.foldl countSymbol f) k = atSymbol f k + BitVec.ofNat 32 (data.count k) := by
  induction data generalizing f with
  | nil => simp
  | cons b rest ih =>
    rw [List.foldl_cons, ih, countSymbol, atSymbol_setSymbol, List.count_cons]
    by_cases hbk : b = k
    · simp [hbk, BitVec.ofNat_add, add_assoc, add_comm (1#32)]
    · simp [hbk]

/-- No counter wraps: an occurrence count is at most the length, and the length fits a word. -/
theorem toNat_atSymbol_countSymbols {data : List Byte} (h : data.length < 2 ^ 32) (k : Byte) :
    (atSymbol (countSymbols data) k).toNat = data.count k := by
  have hfits : data.count k < 2 ^ 32 := List.count_le_length.trans_lt h
  rw [countSymbols, atSymbol_foldl_countSymbol, atSymbol_replicate, zero_add, BitVec.toNat_ofNat,
    Nat.mod_eq_of_lt hfits]

/-! ## The input's symbols -/

theorem State.length_input (s : State) : s.input.length = s.inLen.toNat := by
  simp [State.input, State.ibufBytes]

theorem State.length_input_lt (s : State) : s.input.length < 2 ^ 32 :=
  s.length_input ▸ s.inLen.isLt

/-- A symbol occurs in the input once for each index below IN_LEN that holds it. -/
theorem State.count_input (s : State) (k : Byte) :
    s.input.count k = ((List.range s.inLen.toNat).filter fun i => s.ibufAt i == k).length := by
  rw [List.count_eq_countP, State.input, State.ibufBytes, List.countP_map, List.countP_eq_length_filter]
  simp only [Function.comp_def, Nat.zero_add]

/-! ## The sum over all symbols -/

theorem sum_map_toList_eq_sum_getElem {α : Type} {n : Nat} (v : Vector α n) (g : α → Nat) :
    (v.toList.map g).sum = ∑ i : Fin n, g v[i] := by
  obtain ⟨entries, rfl⟩ := v
  exact (Fin.sum_univ_fun_getElem entries.toList g).symm

theorem sum_map_toList_eq_sum_atSymbol {α : Type} (v : Vector α 256) (g : α → Nat) :
    (v.toList.map g).sum = ∑ k : Fin 256, g (atSymbol v (BitVec.ofFin k)) :=
  sum_map_toList_eq_sum_getElem v g

/-- Every element of a list is an occurrence of one of the type's values. -/
theorem sum_count_univ {α : Type} [Fintype α] [DecidableEq α] (l : List α) : ∑ a : α, l.count a = l.length := by
  simpa using Multiset.sum_count_eq_card (m := (l : Multiset α)) fun a _ => Finset.mem_univ a

theorem sum_count_symbols (data : List Byte) : ∑ k : Fin 256, data.count (BitVec.ofFin k) = data.length :=
  calc ∑ k : Fin 256, data.count (BitVec.ofFin k)
      = ∑ k : Fin 256, (data.map BitVec.toFin).count k :=
        Finset.sum_congr rfl fun k _ =>
          (List.count_map_of_injective data BitVec.toFin BitVec.toFin_injective (BitVec.ofFin k)).symm
    _ = (data.map BitVec.toFin).length := sum_count_univ _
    _ = data.length := List.length_map _

/-! ## COUNT -/

theorem exec_count_inRange {s : State} (h : ¬ s.ibufSize < s.inLen) :
    exec .count s =
      .next (complete { s with freq := countSymbols s.input, status := s.status.freqChanged }) := by
  rcases countRun_cases s with ⟨herr, -⟩ | ⟨-, hrun⟩
  · exact absurd herr h
  · rw [exec_eq, commandRun, hrun, Run.conclude_finished]

theorem exec_count_outOfRange {s : State} (h : s.ibufSize < s.inLen) :
    exec .count s = .next (raise (Instr.opcode .count) .inRange 0 s) := by
  rcases countRun_cases s with ⟨-, hrun⟩ | ⟨hok, -⟩
  · rw [exec_eq, commandRun, hrun, Run.conclude_raised]
  · exact absurd h hok

end Sys2Proof.Machine

namespace Sys2Proof.Proofs

open Sys2Proof.Machine Sys2Proof.Claims

/-- Settles O11: each counter is its symbol's number of occurrences in the input, and the error exit is R166's record. -/
theorem countCountsEverySymbol : Obligations.CountCountsEverySymbol := by
  unfold Obligations.CountCountsEverySymbol
  refine fun s => ⟨fun h => ⟨_, exec_count_inRange h, fun k => ?_, rfl⟩, fun h => exec_count_outOfRange h⟩
  exact (toNat_atSymbol_countSymbols s.length_input_lt k).trans (s.count_input k)

/-- Settles O12: each counter is an occurrence count, and the occurrence counts of all symbols add up to the length. -/
theorem countsAddUpToInLen : Obligations.CountsAddUpToInLen := by
  unfold Obligations.CountsAddUpToInLen
  intro s h
  refine ⟨_, exec_count_inRange h, ?_⟩
  calc ((countSymbols s.input).toList.map BitVec.toNat).sum
      = ∑ k : Fin 256, (atSymbol (countSymbols s.input) (BitVec.ofFin k)).toNat :=
        sum_map_toList_eq_sum_atSymbol _ BitVec.toNat
    _ = ∑ k : Fin 256, s.input.count (BitVec.ofFin k) :=
        Finset.sum_congr rfl fun _ _ => toNat_atSymbol_countSymbols s.length_input_lt _
    _ = s.input.length := sum_count_symbols s.input
    _ = s.inLen.toNat := s.length_input

end Sys2Proof.Proofs

/-! # The tree BUILD makes (R190 to R202)

`BuildStage` says what W is when node n is made.  It holds of the leaves when node 256 is made, and a merge leads from
one stage to the next, so there is a stage at every internal node: the nodes taken there are the first two of W.  That
makes NODE an `IsHuffmanTree`; what else is claimed of the tree follows from that, and from W's last stage. -/

namespace Sys2Proof.Claims

open Sys2Proof.Machine

/-! ## Nodes in key order, and the unmerged ones (R191) -/

theorem exists_symbol {c : Nat} (hc : c < 256) : ∃ k : Byte, k.toNat = c :=
  ⟨BitVec.ofNat 8 c, by rw [BitVec.toNat_ofNat]; omega⟩

section
variable {v : Vector Node 511}

theorem keyLess_irrefl {c : Nat} : ¬ keyLess v c c := by
  simp [keyLess]

/-- In key order the weights do not fall (R191). -/
theorem weightN_le_of_keyLess {m n : Nat} (h : keyLess v m n) : weightN v m ≤ weightN v n := by
  rcases h with hlt | ⟨heq, -⟩
  · exact hlt.le
  · exact heq.le

/-- What is unmerged when the next node is made. -/
theorem unmerged_succ_iff {n c : Nat} (hn : 256 ≤ n) :
    unmerged v (n + 1) c ↔ (c = n ∧ ∀ m, 256 ≤ m → m ≤ n → leftN v m ≠ n ∧ rightN v m ≠ n) ∨
      (unmerged v n c ∧ c ≠ leftN v n ∧ c ≠ rightN v n) := by
  unfold unmerged
  constructor
  · rintro ⟨hc, hfree⟩
    by_cases he : c = n
    · subst he
      exact .inl ⟨rfl, fun m hlow hhigh => hfree m hlow (by omega)⟩
    · obtain ⟨hl, hr⟩ := hfree n hn (by omega)
      exact .inr ⟨⟨by omega, fun m hlow hhigh => hfree m hlow (by omega)⟩, Ne.symm hl, Ne.symm hr⟩
  · rintro (⟨rfl, hfree⟩ | ⟨⟨hc, hfree⟩, hl, hr⟩)
    · exact ⟨by omega, fun m hlow hhigh => hfree m hlow (by omega)⟩
    · refine ⟨by omega, fun m hlow hhigh => ?_⟩
      rcases Nat.lt_succ_iff_lt_or_eq.1 hhigh with hlt | rfl
      · exact hfree m hlow hlt
      · exact ⟨Ne.symm hl, Ne.symm hr⟩

theorem unmerged_of_succ {n c : Nat} (hn : 256 ≤ n) (h : unmerged v (n + 1) c) (hne : c ≠ n) :
    unmerged v n c ∧ c ≠ leftN v n ∧ c ≠ rightN v n :=
  ((unmerged_succ_iff hn).1 h).resolve_left fun he => hne he.1

/-- When the first k merges took the nodes below 2k in pairs, the nodes from 2k on are unmerged. -/
theorem unmerged_iff_of_pairs {k : Nat} (hpairs : ∀ j < k, leftN v (256 + j) = 2 * j ∧ rightN v (256 + j) = 2 * j + 1)
    (c : Nat) : unmerged v (256 + k) c ↔ 2 * k ≤ c ∧ c < 256 + k := by
  constructor
  · rintro ⟨hc, hfree⟩
    refine ⟨?_, hc⟩
    by_contra hlt
    obtain ⟨hl, hr⟩ := hpairs (c / 2) (by omega)
    obtain ⟨hl', hr'⟩ := hfree (256 + c / 2) (by omega) (by omega)
    omega
  · rintro ⟨hc, hlt⟩
    refine ⟨hlt, fun m hlow hhigh => ?_⟩
    obtain ⟨hl, hr⟩ := hpairs (m - 256) (by omega)
    rw [show 256 + (m - 256) = m by omega] at hl hr
    omega

end

end Sys2Proof.Claims

namespace Sys2Proof.Machine

open Sys2Proof.Claims

/-! ## The order of the keys (R191) -/

theorem Key.less_iff {a b : Key} :
    a.less b = true ↔ a.weight < b.weight ∨ a.weight = b.weight ∧ a.index < b.index := by
  simp [Key.less, Nat.blt_eq]

theorem Key.less_trans {a b c : Key} (hab : a.less b = true) (hbc : b.less c = true) : a.less c = true := by
  rw [Key.less_iff] at *
  omega

/-- The keys of two nodes are never equal (R191). -/
theorem Key.less_of_not_less {a b : Key} (hne : a.index ≠ b.index) (h : ¬ a.less b = true) : b.less a = true := by
  rw [Key.less_iff] at *
  omega

/-- W in ascending key order. -/
def keysAscend (w : List Key) : Prop := w.Pairwise fun a b => a.less b = true

theorem keysAscend_cons {k : Key} {w : List Key} :
    keysAscend (k :: w) ↔ (∀ x ∈ w, k.less x = true) ∧ keysAscend w :=
  List.pairwise_cons

theorem insertNode_ascends {k : Key} {w : List Key} (hw : keysAscend w) (hk : ∀ x ∈ w, x.index ≠ k.index) :
    keysAscend (insertNode k w) := by
  induction w with
  | nil => exact List.pairwise_singleton ..
  | cons x w ih =>
    obtain ⟨hx, hw'⟩ := keysAscend_cons.1 hw
    obtain ⟨hxk, hwk⟩ := List.forall_mem_cons.1 hk
    unfold insertNode
    split
    · rename_i hless
      refine keysAscend_cons.2 ⟨fun y hy => ?_, ih hw' hwk⟩
      rcases List.mem_cons.1 ((insertNode_perm k w).mem_iff.1 hy) with rfl | hy
      · exact hless
      · exact hx y hy
    · rename_i hless
      have hkx : k.less x = true := Key.less_of_not_less hxk (by simp [hless])
      refine keysAscend_cons.2 ⟨List.forall_mem_cons.2 ⟨hkx, fun y hy => ?_⟩, hw⟩
      exact Key.less_trans hkx (hx y hy)

theorem foldr_insertNode_ascends {l : List Key} (h : (l.map Key.index).Nodup) :
    keysAscend (l.foldr insertNode []) := by
  induction l with
  | nil => exact .nil
  | cons k l ih =>
    obtain ⟨hk, hl⟩ := List.nodup_cons.1 h
    refine insertNode_ascends (ih hl) fun x hx he => hk ?_
    exact List.mem_map.2 ⟨x, (foldr_insertNode_perm l).mem_iff.1 hx, he⟩

/-! ## The working set at the start (R190) -/

/-- The sum of the frequencies, which every stage's weights keep (R197). -/
def freqTotal (freq : Vector Word 256) : Nat := (freq.toList.map BitVec.toNat).sum

/-- 256 words of 32 bits: the weights of one stage never add up to 2^40 (R194). -/
theorem freqTotal_lt (freq : Vector Word 256) : freqTotal freq < 2 ^ 40 := by
  have hle : freqTotal freq ≤ (freq.toList.map BitVec.toNat).length • (2 ^ 32 - 1) := by
    refine List.sum_le_card_nsmul _ _ fun n hn => ?_
    obtain ⟨x, -, rfl⟩ := List.mem_map.1 hn
    exact Nat.le_sub_one_of_lt x.isLt
  rw [List.length_map, Vector.length_toList, smul_eq_mul] at hle
  omega

/-- The leaves with their keys, in the order of their index. -/
def freqKeys (freq : Vector Word 256) : List Key := freq.toList.zipIdx.map fun p => ⟨p.1.toNat, p.2⟩

theorem leafKeys_perm (freq : Vector Word 256) : (leafKeys freq).Perm (freqKeys freq) :=
  foldr_insertNode_perm _

theorem map_index_freqKeys (freq : Vector Word 256) : (freqKeys freq).map Key.index = List.range 256 := by
  simp [freqKeys, Function.comp_def, List.zipIdx_map_snd, List.range_eq_range']

theorem map_weight_freqKeys (freq : Vector Word 256) :
    (freqKeys freq).map Key.weight = freq.toList.map BitVec.toNat := by
  have hfst : Key.weight ∘ (fun p : Word × Nat => ⟨p.1.toNat, p.2⟩) = BitVec.toNat ∘ Prod.fst := rfl
  rw [freqKeys, List.map_map, hfst, ← List.map_map, List.zipIdx_map_fst]

theorem weight_of_mem_freqKeys {freq : Vector Word 256} {k : Key} (h : k ∈ freqKeys freq) :
    ∃ hk : k.index < 256, k.weight = freq[k.index].toNat := by
  obtain ⟨⟨x, i⟩, hx, rfl⟩ := List.mem_map.1 h
  obtain ⟨-, hi, hxi⟩ := List.mem_zipIdx hx
  have hi : i < 256 := by simpa using hi
  exact ⟨hi, by simp [hxi]⟩

theorem leafKeys_ascend (freq : Vector Word 256) : keysAscend (leafKeys freq) := by
  refine foldr_insertNode_ascends (l := freqKeys freq) ?_
  rw [map_index_freqKeys]
  exact List.nodup_range

theorem weightN_buildTree_leaf (freq : Vector Word 256) (old : Vector Node 511) {n : Nat} (hn : n < 256) :
    weightN (buildTree freq old) n = freq[n].toNat := by
  have hfits := freq[n].isLt
  rw [weightN, nodeN, nodeAt_ofNat _ (by omega), buildTree_leaf _ _ hn, BitVec.toNat_setWidth]
  omega

/-! ## The stages of the build -/

/-- The working set w is W of R191 when node n is made: the unmerged nodes under their keys, in ascending order.  NODE
holds the merges that are made of it; every merge before took nodes that existed, and kept the sum of W's weights. -/
structure BuildStage (freq : Vector Word 256) (v : Vector Node 511) (n : Nat) (w : List Key) : Prop where
  ascends : keysAscend w
  weight : ∀ k ∈ w, k.weight = weightN v k.index
  index : ∀ c, c ∈ w.map Key.index ↔ unmerged v n c
  earlier : ∀ m, 256 ≤ m → m < n → leftN v m < m ∧ rightN v m < m
  length : w.length + n = 512
  total : (w.map Key.weight).sum = freqTotal freq
  held : holdsMerges v n (merges (w.length - 1) n w)

theorem buildStage_leaves (freq : Vector Word 256) (old : Vector Node 511) :
    BuildStage freq (buildTree freq old) 256 (leafKeys freq) where
  ascends := leafKeys_ascend freq
  weight k hk := by
    obtain ⟨hlt, hweight⟩ := weight_of_mem_freqKeys ((leafKeys_perm freq).mem_iff.1 hk)
    rw [weightN_buildTree_leaf freq old hlt, hweight]
  index c := by
    rw [(leafKeys_index_perm freq).mem_iff, List.mem_range]
    exact ⟨fun hc => ⟨hc, fun m hlow hhigh => by omega⟩, fun hc => hc.1⟩
  earlier m hlow hhigh := by omega
  length := by rw [leafKeys_length]
  total := by rw [((leafKeys_perm freq).map Key.weight).sum_eq, map_weight_freqKeys, freqTotal]
  held := by
    rw [leafKeys_length]
    exact buildTree_holdsMerges freq old

section
variable {freq : Vector Word 256} {v : Vector Node 511} {n : Nat} {w : List Key}

/-- The members of W are in the order of the nodes they stand for (R191). -/
theorem BuildStage.keyLess_of_less (h : BuildStage freq v n w) {a b : Key} (ha : a ∈ w) (hb : b ∈ w)
    (hless : a.less b = true) : keyLess v a.index b.index := by
  rwa [Key.less_iff, h.weight a ha, h.weight b hb] at hless

theorem BuildStage.unmerged_of_mem (h : BuildStage freq v n w) {k : Key} (hk : k ∈ w) : unmerged v n k.index :=
  (h.index _).1 (List.mem_map_of_mem hk)

theorem BuildStage.index_lt (h : BuildStage freq v n w) {k : Key} (hk : k ∈ w) : k.index < n :=
  (h.unmerged_of_mem hk).1

/-- W has at least two members until the root is made (R193). -/
theorem BuildStage.exists_pair (h : BuildStage freq v n w) (hn : n ≤ 510) : ∃ a b rest, w = a :: b :: rest := by
  have hlen := h.length
  match w with
  | [] | [_] => simp at hlen; omega
  | a :: b :: rest => exact ⟨a, b, rest, rfl⟩

section
variable {a b : Key} {rest : List Key} (h : BuildStage freq v n (a :: b :: rest))
include h

/-- The node made is the merge's record. -/
theorem BuildStage.record : nodeN v n = (⟨a.weight + b.weight, a.index, b.index⟩ : Merge).node :=
  (holdsMerges_cons.1 h.held).1

theorem BuildStage.left (hn : n ≤ 510) : leftN v n = a.index := by
  have hlt := h.index_lt (k := a) (by simp)
  simp only [leftN, h.record, Merge.node, BitVec.toNat_ofNat]
  omega

theorem BuildStage.right (hn : n ≤ 510) : rightN v n = b.index := by
  have hlt := h.index_lt (k := b) (by simp)
  simp only [rightN, h.record, Merge.node, BitVec.toNat_ofNat]
  omega

/-- The weight of a merge is exact (R194). -/
theorem BuildStage.weight_made : weightN v n = a.weight + b.weight := by
  have htotal := h.total
  have hlt := freqTotal_lt freq
  simp only [List.map_cons, List.sum_cons] at htotal
  simp only [weightN, h.record, Merge.node, BitVec.toNat_ofNat]
  omega

/-- The two nodes that are taken are not left in W. -/
theorem BuildStage.index_rest (c : Nat) :
    c ∈ rest.map Key.index ↔ unmerged v n c ∧ c ≠ a.index ∧ c ≠ b.index := by
  obtain ⟨ha, hbrest⟩ := keysAscend_cons.1 h.ascends
  obtain ⟨hb, -⟩ := keysAscend_cons.1 hbrest
  rw [← h.index c, List.map_cons, List.map_cons, List.mem_cons, List.mem_cons]
  constructor
  · intro hc
    obtain ⟨k, hk, rfl⟩ := List.mem_map.1 hc
    have hmem : k ∈ a :: b :: rest := by simp [hk]
    refine ⟨.inr (.inr hc), fun he => ?_, fun he => ?_⟩
    · exact keyLess_irrefl (he ▸ h.keyLess_of_less (by simp) hmem (ha k (by simp [hk])))
    · exact keyLess_irrefl (he ▸ h.keyLess_of_less (by simp) hmem (hb k hk))
  · rintro ⟨hc, hca, hcb⟩
    exact (hc.resolve_left hca).resolve_left hcb

/-- A merge leads to the next stage: its two nodes leave W and the node made enters (R192). -/
theorem BuildStage.merge (hlow : 256 ≤ n) (hn : n ≤ 510) :
    BuildStage freq v (n + 1) (insertNode ⟨a.weight + b.weight, n⟩ rest) := by
  have hperm := insertNode_perm ⟨a.weight + b.weight, n⟩ rest
  have hl := h.left hn
  have hr := h.right hn
  have hrest : ∀ k ∈ rest, k ∈ a :: b :: rest := fun k hk => by simp [hk]
  have hearlier : ∀ m, 256 ≤ m → m < n + 1 → leftN v m < m ∧ rightN v m < m := by
    intro m hm hmn
    rcases Nat.lt_succ_iff_lt_or_eq.1 hmn with hlt | rfl
    · exact h.earlier m hm hlt
    · exact ⟨hl ▸ h.index_lt (by simp), hr ▸ h.index_lt (by simp)⟩
  refine
    { earlier := hearlier
      ascends := ?ascends
      weight := ?weight
      index := ?index
      length := ?length
      total := ?total
      held := ?held }
  case ascends =>
    refine insertNode_ascends (keysAscend_cons.1 (keysAscend_cons.1 h.ascends).2).2 fun k hk => ?_
    exact (h.index_lt (hrest k hk)).ne
  case weight =>
    intro k hk
    rcases List.mem_cons.1 (hperm.mem_iff.1 hk) with rfl | hk
    · exact h.weight_made.symm
    · exact h.weight k (hrest k hk)
  case index =>
    intro c
    have hmade : ∀ m, 256 ≤ m → m ≤ n → leftN v m ≠ n ∧ rightN v m ≠ n := fun m hm hmn => by
      have := hearlier m hm (by omega)
      omega
    rw [(hperm.map Key.index).mem_iff, List.map_cons, List.mem_cons, h.index_rest, unmerged_succ_iff hlow, hl, hr]
    simp only [and_iff_left hmade]
  case length =>
    have := h.length
    simp only [List.length_cons] at this
    rw [hperm.length_eq, List.length_cons]
    omega
  case total =>
    rw [(hperm.map Key.weight).sum_eq, ← h.total]
    simp [Nat.add_assoc]
  case held =>
    rw [hperm.length_eq]
    exact (holdsMerges_cons.1 h.held).2

end

end

/-- Every internal node, and the end of the build, has its stage. -/
theorem exists_buildStage (freq : Vector Word 256) (old : Vector Node 511) {n : Nat} (hlow : 256 ≤ n) (hhigh : n ≤ 511) :
    ∃ w, BuildStage freq (buildTree freq old) n w := by
  induction n, hlow using Nat.le_induction with
  | base => exact ⟨_, buildStage_leaves freq old⟩
  | succ n hlow ih =>
    obtain ⟨w, h⟩ := ih (by omega)
    obtain ⟨a, b, rest, rfl⟩ := h.exists_pair (by omega)
    exact ⟨_, h.merge hlow (by omega)⟩

/-- The stage at an internal node starts with the node's children. -/
theorem exists_buildStage_children (freq : Vector Word 256) (old : Vector Node 511) {n : Nat} (hlow : 256 ≤ n)
    (hhigh : n ≤ 510) :
    ∃ a b rest, BuildStage freq (buildTree freq old) n (a :: b :: rest) ∧
      leftN (buildTree freq old) n = a.index ∧ rightN (buildTree freq old) n = b.index := by
  obtain ⟨w, h⟩ := exists_buildStage freq old hlow (by omega)
  obtain ⟨a, b, rest, rfl⟩ := h.exists_pair hhigh
  exact ⟨a, b, rest, h, h.left hhigh, h.right hhigh⟩

theorem buildTree_isHuffmanTree (freq : Vector Word 256) (old : Vector Node 511) :
    IsHuffmanTree freq (buildTree freq old) where
  leafWeight k := weightN_buildTree_leaf freq old k.isLt
  leftUnmerged n hlow hhigh := by
    obtain ⟨a, b, rest, h, hl, -⟩ := exists_buildStage_children freq old hlow hhigh
    exact hl ▸ h.unmerged_of_mem (by simp)
  rightUnmerged n hlow hhigh := by
    obtain ⟨a, b, rest, h, -, hr⟩ := exists_buildStage_children freq old hlow hhigh
    exact hr ▸ h.unmerged_of_mem (by simp)
  ordered n hlow hhigh := by
    obtain ⟨a, b, rest, h, hl, hr⟩ := exists_buildStage_children freq old hlow hhigh
    rw [hl, hr]
    exact h.keyLess_of_less (by simp) (by simp) ((keysAscend_cons.1 h.ascends).1 b (by simp))
  least n hlow hhigh c hc hcl hcr := by
    obtain ⟨a, b, rest, h, hl, hr⟩ := exists_buildStage_children freq old hlow hhigh
    obtain ⟨k, hk, rfl⟩ := List.mem_map.1 ((h.index_rest c).2 ⟨hc, hl ▸ hcl, hr ▸ hcr⟩)
    rw [hr]
    exact h.keyLess_of_less (by simp) (by simp [hk]) ((keysAscend_cons.1 (keysAscend_cons.1 h.ascends).2).1 k hk)
  sum n hlow hhigh := by
    obtain ⟨a, b, rest, h, hl, hr⟩ := exists_buildStage_children freq old hlow hhigh
    rw [hl, hr, ← h.weight a (by simp), ← h.weight b (by simp), h.weight_made]

/-- At the end of the build W holds the root alone (R193). -/
theorem BuildStage.eq_root {freq : Vector Word 256} {v : Vector Node 511} {w : List Key} (h : BuildStage freq v 511 w) :
    w = [⟨weightN v 510, 510⟩] := by
  obtain ⟨⟨weight, index⟩, rfl⟩ : ∃ k, w = [k] := List.length_eq_one_iff.1 (by have := h.length; omega)
  have hroot : 510 ∈ [(⟨weight, index⟩ : Key)].map Key.index := by
    refine (h.index 510).2 ⟨by omega, fun m hlow hhigh => ?_⟩
    have := h.earlier m hlow hhigh
    omega
  obtain rfl : index = 510 := (List.mem_singleton.1 hroot).symm
  rw [← h.weight _ (List.mem_singleton_self _)]

theorem buildStage_root (freq : Vector Word 256) (old : Vector Node 511) :
    BuildStage freq (buildTree freq old) 511 [⟨weightN (buildTree freq old) 510, 510⟩] := by
  obtain ⟨w, h⟩ := exists_buildStage freq old (n := 511) (by omega) le_rfl
  exact h.eq_root ▸ h

theorem weightN_root (freq : Vector Word 256) (old : Vector Node 511) :
    weightN (buildTree freq old) 510 = freqTotal freq := by
  simpa using (buildStage_root freq old).total

/-- Every node but the root was merged (R197). -/
theorem exists_parent (freq : Vector Word 256) (old : Vector Node 511) {c : Nat} (hc : c ≤ 509) :
    ∃ n, 256 ≤ n ∧ n ≤ 510 ∧ (leftN (buildTree freq old) n = c ∨ rightN (buildTree freq old) n = c) := by
  have hmerged : ¬ unmerged (buildTree freq old) 511 c := by
    rw [← (buildStage_root freq old).index c, List.map_singleton, List.mem_singleton]
    exact (show c < 510 by omega).ne
  by_contra! hnone
  exact hmerged ⟨by omega, fun m hlow hhigh => hnone m hlow (by omega)⟩

end Sys2Proof.Machine

/-! # What follows for every Huffman tree (R197 to R202) -/

namespace Sys2Proof.Claims

open Sys2Proof.Machine

section
variable {freq : Vector Word 256} {v : Vector Node 511} (h : IsHuffmanTree freq v)
include h

section
variable {n : Nat} (hlow : 256 ≤ n) (hhigh : n ≤ 510)
include hlow hhigh

theorem IsHuffmanTree.left_lt : leftN v n < n := (h.leftUnmerged n hlow hhigh).1

theorem IsHuffmanTree.right_lt : rightN v n < n := (h.rightUnmerged n hlow hhigh).1

theorem IsHuffmanTree.left_ne_right : leftN v n ≠ rightN v n := fun he =>
  keyLess_irrefl (he ▸ h.ordered n hlow hhigh)

/-- A child was unmerged when its parent was made. -/
theorem IsHuffmanTree.child_unmerged {c : Nat} (hc : leftN v n = c ∨ rightN v n = c) : unmerged v n c := by
  rcases hc with rfl | rfl
  · exact h.leftUnmerged n hlow hhigh
  · exact h.rightUnmerged n hlow hhigh

theorem IsHuffmanTree.child_lt {c : Nat} (hc : leftN v n = c ∨ rightN v n = c) : c < n :=
  (h.child_unmerged hlow hhigh hc).1

/-- Once merged, a node is no later merge's child (R197). -/
theorem IsHuffmanTree.parent_not_lt {m c : Nat} (hm : 256 ≤ m) (hmc : leftN v m = c ∨ rightN v m = c)
    (hnc : leftN v n = c ∨ rightN v n = c) : ¬ m < n := fun hlt => by
  obtain ⟨hl, hr⟩ := (h.child_unmerged hlow hhigh hnc).2 m hm hlt
  exact hmc.elim hl hr

/-- What the next merge can take has a greater key than both children of node n, unless it is node n itself. -/
theorem IsHuffmanTree.right_keyLess {c : Nat} (hc : unmerged v (n + 1) c) (hne : c ≠ n) : keyLess v (rightN v n) c := by
  obtain ⟨hfree, hl, hr⟩ := unmerged_of_succ hlow hc hne
  exact h.least n hlow hhigh c hfree hl hr

end

theorem IsHuffmanTree.parent_unique {m n c : Nat} (hm : 256 ≤ m ∧ m ≤ 510) (hn : 256 ≤ n ∧ n ≤ 510)
    (hmc : leftN v m = c ∨ rightN v m = c) (hnc : leftN v n = c ∨ rightN v n = c) : m = n :=
  Nat.le_antisymm (Nat.not_lt.1 (h.parent_not_lt hm.1 hm.2 hn.1 hnc hmc))
    (Nat.not_lt.1 (h.parent_not_lt hn.1 hn.2 hm.1 hmc hnc))

/-! ## Merge weights never decrease (R199) -/

/-- A node merged next weighs at least what the heavier child of node n weighs. -/
theorem IsHuffmanTree.weight_right_le {n c : Nat} (hlow : 256 ≤ n) (hhigh : n ≤ 510) (hc : unmerged v (n + 1) c) :
    weightN v (rightN v n) ≤ weightN v c := by
  by_cases hne : c = n
  · rw [hne, h.sum n hlow hhigh]
    exact Nat.le_add_left ..
  · exact weightN_le_of_keyLess (h.right_keyLess hlow hhigh hc hne)

/-- Node n+1 either has node n below it, or two nodes that node n could have taken and did not. -/
theorem IsHuffmanTree.weight_mono {n : Nat} (hlow : 256 ≤ n) (hhigh : n ≤ 509) : weightN v n ≤ weightN v (n + 1) := by
  have hsum := h.sum (n + 1) (by omega) (by omega)
  have hleft := h.leftUnmerged (n + 1) (by omega) (by omega)
  have hright := h.rightUnmerged (n + 1) (by omega) (by omega)
  by_cases hchild : leftN v (n + 1) = n ∨ rightN v (n + 1) = n
  · rcases hchild with he | he <;> rw [he] at hsum <;> omega
  · have hsum' := h.sum n hlow (by omega)
    have hordered := weightN_le_of_keyLess (h.ordered n hlow (by omega))
    have hl := h.weight_right_le hlow (by omega) hleft
    have hr := h.weight_right_le hlow (by omega) hright
    omega

/-! ## Equal frequencies (R201) -/

section
variable {x : Word} (hequal : ∀ k : Byte, atSymbol freq k = x)
include hequal

theorem IsHuffmanTree.leaf_weight_of_equal {c : Nat} (hc : c < 256) : weightN v c = x.toNat := by
  obtain ⟨k, rfl⟩ := exists_symbol hc
  rw [h.leafWeight, hequal]

/-- With equal frequencies the weights do not fall with the index, over leaves and internal nodes. -/
theorem IsHuffmanTree.weight_mono_of_equal {m n : Nat} (hmn : m ≤ n) (hn : n ≤ 510) : weightN v m ≤ weightN v n := by
  induction n, hmn using Nat.le_induction with
  | base => exact le_rfl
  | succ n _ ih =>
    refine (ih (by omega)).trans ?_
    rcases Nat.lt_trichotomy n 255 with hleaf | rfl | hinner
    · rw [h.leaf_weight_of_equal hequal (by omega), h.leaf_weight_of_equal hequal (by omega)]
    · have hchild := h.left_lt (n := 256) (by omega) (by omega)
      rw [h.leaf_weight_of_equal hequal (by omega), h.sum 256 (by omega) (by omega),
        h.leaf_weight_of_equal hequal hchild]
      exact Nat.le_add_right ..
    · exact h.weight_mono (by omega) (by omega)

/-- With equal frequencies the order of the keys is the order of the indices. -/
theorem IsHuffmanTree.lt_of_keyLess_of_equal {m n : Nat} (hm : m ≤ 510) (hless : keyLess v m n) : m < n := by
  by_contra hge
  have hle := h.weight_mono_of_equal hequal (Nat.not_lt.1 hge) hm
  rcases hless with hlt | ⟨-, hlt⟩
  · omega
  · exact hge hlt

/-- The least two of the unmerged nodes are the first two. -/
theorem IsHuffmanTree.children_of_equal {k : Nat} (hk : k < 255) :
    leftN v (256 + k) = 2 * k ∧ rightN v (256 + k) = 2 * k + 1 := by
  induction k using Nat.strong_induction_on with
  | _ k ih =>
    have hfree := unmerged_iff_of_pairs fun j hj => ih j hj (by omega)
    have hlow : 256 ≤ 256 + k := by omega
    have hhigh : 256 + k ≤ 510 := by omega
    have hleft := (hfree _).1 (h.leftUnmerged _ hlow hhigh)
    have hright := (hfree _).1 (h.rightUnmerged _ hlow hhigh)
    have hordered := h.lt_of_keyLess_of_equal hequal (by omega) (h.ordered _ hlow hhigh)
    have hleast : ∀ c, 2 * k ≤ c → c < 256 + k → c ≠ leftN v (256 + k) → c ≠ rightN v (256 + k) →
        rightN v (256 + k) < c := fun c hc hlt hl hr =>
      h.lt_of_keyLess_of_equal hequal (by omega) (h.least _ hlow hhigh c ((hfree c).2 ⟨hc, hlt⟩) hl hr)
    have hfirst := hleast (2 * k) (by omega) (by omega)
    have hsecond := hleast (2 * k + 1) (by omega) (by omega)
    omega

end

/-! ## One nonzero frequency (R202) -/

/-- Until the root is made, a merge leaves a node beside its two children: the next merge takes two nodes. -/
theorem IsHuffmanTree.exists_beside {n : Nat} (hlow : 256 ≤ n) (hhigh : n ≤ 509) :
    ∃ d, d < n ∧ d ≠ leftN v n ∧ d ≠ rightN v n ∧ keyLess v (rightN v n) d := by
  have hne := h.left_ne_right (n := n + 1) (by omega) (by omega)
  obtain ⟨d, hd, hdn⟩ : ∃ d, unmerged v (n + 1) d ∧ d ≠ n := by
    by_cases hl : leftN v (n + 1) = n
    · exact ⟨_, h.rightUnmerged (n + 1) (by omega) (by omega), fun he => hne (hl.trans he.symm)⟩
    · exact ⟨_, h.leftUnmerged (n + 1) (by omega) (by omega), hl⟩
  obtain ⟨hfree, hl, hr⟩ := unmerged_of_succ hlow hd hdn
  exact ⟨d, hfree.1, hl, hr, h.right_keyLess hlow (by omega) hd hdn⟩

section
variable {c : Byte} (hc : atSymbol freq c ≠ 0) (hzero : ∀ k : Byte, k ≠ c → atSymbol freq k = 0)
include hc hzero

omit hzero in
theorem IsHuffmanTree.weight_symbol_pos : 0 < weightN v c.toNat := by
  rw [h.leafWeight, Nat.pos_iff_ne_zero]
  exact fun he => hc (BitVec.eq_of_toNat_eq he)

omit hc in
theorem IsHuffmanTree.leaf_weight_zero {d : Nat} (hd : d < 256) (hne : d ≠ c.toNat) : weightN v d = 0 := by
  obtain ⟨k, rfl⟩ := exists_symbol hd
  rw [h.leafWeight, hzero k fun he => hne (congrArg BitVec.toNat he)]
  rfl

/-- The only node with a weight is never among the two of least key while a third is there. -/
theorem IsHuffmanTree.merge_of_zeros {n : Nat} (hlow : 256 ≤ n) (hhigh : n ≤ 509) :
    weightN v n = 0 ∧ leftN v n ≠ c.toNat ∧ rightN v n ≠ c.toNat := by
  induction n using Nat.strong_induction_on with
  | _ n ih =>
    have hpos := h.weight_symbol_pos hc
    have hweight : ∀ d < n, d ≠ c.toNat → weightN v d = 0 := fun d hd hne => by
      by_cases hleaf : d < 256
      · exact h.leaf_weight_zero hzero hleaf hne
      · exact (ih d hd (Nat.not_lt.1 hleaf) (by omega)).1
    have hright : rightN v n ≠ c.toNat := fun he => by
      obtain ⟨d, hd, -, hdr, hless⟩ := h.exists_beside hlow hhigh
      have hle := weightN_le_of_keyLess hless
      rw [he, hweight d hd (he ▸ hdr)] at hle
      omega
    have hr := hweight _ (h.right_lt hlow (by omega)) hright
    have hl := weightN_le_of_keyLess (h.ordered n hlow (by omega))
    refine ⟨?_, fun he => ?_, hright⟩
    · rw [h.sum n hlow (by omega)]
      omega
    · rw [he] at hl
      omega

/-- A node that no merge before the root takes is a child of the root, if it has a parent. -/
theorem IsHuffmanTree.root_of_zeros
    (hparent : ∀ d ≤ 509, ∃ n, 256 ≤ n ∧ n ≤ 510 ∧ (leftN v n = d ∨ rightN v n = d)) :
    leftN v 510 = 509 ∧ rightN v 510 = c.toNat := by
  have hlt := c.isLt
  have hlast : leftN v 510 = 509 ∨ rightN v 510 = 509 := by
    obtain ⟨n, hlow, hhigh, hn⟩ := hparent 509 le_rfl
    obtain rfl : n = 510 := by have := h.child_lt hlow hhigh hn; omega
    exact hn
  have hsymbol : leftN v 510 = c.toNat ∨ rightN v 510 = c.toNat := by
    obtain ⟨n, hlow, hhigh, hn⟩ := hparent c.toNat (by omega)
    by_cases hroot : n = 510
    · exact hroot ▸ hn
    · obtain ⟨-, hl, hr⟩ := h.merge_of_zeros hc hzero hlow (by omega)
      exact absurd hn (by simp [hl, hr])
  have hordered := weightN_le_of_keyLess (h.ordered 510 (by omega) le_rfl)
  have hleft : leftN v 510 ≠ c.toNat := fun he => by
    have hpos := h.weight_symbol_pos hc
    have hright : rightN v 510 = 509 := by omega
    rw [he, hright, (h.merge_of_zeros hc hzero (n := 509) (by omega) le_rfl).1] at hordered
    omega
  omega

end

end

end Sys2Proof.Claims

namespace Sys2Proof.Machine

/-- BUILD has no error (R190). -/
theorem exec_build (s : State) :
    exec .build s =
      .next (complete { s with node := buildTree s.freq s.node, status := s.status.treeBuilt }) :=
  exec_eq .build s

end Sys2Proof.Machine

namespace Sys2Proof.Proofs

open Sys2Proof.Machine Sys2Proof.Claims

/-- Settles O13: each internal node is made from a stage of W, whose first two nodes are those of least key. -/
theorem buildMakesTheHuffmanTree : Obligations.BuildMakesTheHuffmanTree := by
  unfold Obligations.BuildMakesTheHuffmanTree
  exact fun s => ⟨_, exec_build s, buildTree_isHuffmanTree s.freq s.node, rfl⟩

/-- Settles O14: a child is unmerged when its parent is made, and W ends as the root with the weight of all. -/
theorem builtNodesFormOneTree : Obligations.BuiltNodesFormOneTree := by
  unfold Obligations.BuiltNodesFormOneTree
  intro s
  have h := buildTree_isHuffmanTree s.freq s.node
  refine ⟨_, exec_build s, fun n hlow hhigh => ?below, fun c hc => ?parent, fun n hlow hhigh => ?root,
    weightN_root s.freq s.node⟩
  case below => exact ⟨h.left_lt hlow hhigh, h.right_lt hlow hhigh, h.sum n hlow hhigh⟩
  case parent =>
    obtain ⟨n, hlow, hhigh, hn⟩ := exists_parent s.freq s.node hc
    exact ⟨n, ⟨hlow, hhigh, hn⟩, fun m hm hm' hmc => h.parent_unique ⟨hm, hm'⟩ ⟨hlow, hhigh⟩ hmc hn⟩
  case root =>
    exact ⟨((h.left_lt hlow hhigh).trans_le hhigh).ne, ((h.right_lt hlow hhigh).trans_le hhigh).ne,
      h.left_ne_right hlow hhigh⟩

/-- Settles O15: `IsHuffmanTree.weight_mono`. -/
theorem mergeWeightsNeverDecrease : Obligations.MergeWeightsNeverDecrease := by
  unfold Obligations.MergeWeightsNeverDecrease
  exact fun s => ⟨_, exec_build s, fun k hk =>
    (buildTree_isHuffmanTree s.freq s.node).weight_mono (by omega) (by omega)⟩

/-- Settles O16: all that a window shows of a built tree comes from FREQ. -/
theorem buildDependsOnFreqAlone : Obligations.BuildDependsOnFreqAlone := by
  unfold Obligations.BuildDependsOnFreqAlone
  intro s s' t t' hfreq ht ht' n w _
  obtain rfl := Host.Outcome.next.inj ((exec_build s).symm.trans ht)
  obtain rfl := Host.Outcome.next.inj ((exec_build s').symm.trans ht')
  simp only [complete_node, ← hfreq]
  exact (sameTree_buildTree s.freq s'.node s.node).nodeWindow_eq n w

/-- Settles O17: with equal frequencies key order is index order, so that W's first two are the two lowest indices. -/
theorem equalFrequenciesPairInOrder : Obligations.EqualFrequenciesPairInOrder := by
  unfold Obligations.EqualFrequenciesPairInOrder
  exact fun s x hequal => ⟨_, exec_build s, fun k hk =>
    (buildTree_isHuffmanTree s.freq s.node).children_of_equal hequal hk⟩

/-- Settles O18: the one node with a weight has the greatest key of every stage, so that the root takes it last. -/
theorem oneSymbolTree : Obligations.OneSymbolTree := by
  unfold Obligations.OneSymbolTree
  intro s c hc hzero
  have h := buildTree_isHuffmanTree s.freq s.node
  obtain ⟨hleft, hright⟩ := h.root_of_zeros hc hzero fun d hd => exists_parent s.freq s.node hd
  refine ⟨_, exec_build s, fun k hk => h.merge_of_zeros hc hzero (by omega) (by omega), hleft, hright, ?_⟩
  rw [complete_node, h.sum 510 (by omega) le_rfl, hleft, hright, h.leafWeight,
    (h.merge_of_zeros hc hzero (n := 509) (by omega) le_rfl).1, Nat.zero_add]

end Sys2Proof.Proofs

/-! # The code book DERIVE makes (R210 to R218)

`Walked` is `Forest` with the paths kept: it says with which paths the walk's stack comes down to which leaves.  By
induction on it the walk writes exactly those paths (`Walked.walk_eq`), each leads from the root to its leaf
(`Walked.onPath`), and the Kraft sum of the leaves is that of the stack (`Walked.sum_kraftTerm`). -/

namespace Sys2Proof.Machine

open Sys2Proof.Claims

/-! ## Code records (R59) -/

theorem testBit_pathNumber (p : List Bool) (j : Nat) : (pathNumber p).testBit j = p.getD j false := by
  induction p generalizing j with
  | nil => simp [pathNumber]
  | cons b p ih =>
    cases j with
    | zero => cases b <;> simp [pathNumber]
    | succ j =>
      have hhalf : (b.toNat + 2 * pathNumber p) / 2 = pathNumber p := by
        cases b <;> simp only [Bool.toNat_false, Bool.toNat_true] <;> omega
      rw [pathNumber, Nat.testBit_succ, hhalf, ih, List.getD_cons_succ]

theorem pathNumber_lt (p : List Bool) : pathNumber p < 2 ^ p.length := by
  induction p with
  | nil => simp [pathNumber]
  | cons b p ih =>
    have hb := b.toNat_le
    rw [pathNumber, List.length_cons, Nat.pow_succ]
    omega

section
variable {p : List Bool} (hp : p.length ≤ 255)
include hp

theorem Code.toNat_len_ofPath : (Code.ofPath p).len.toNat = p.length := by
  rw [Code.ofPath, BitVec.toNat_ofNat]
  omega

theorem Code.getLsbD_bits_ofPath (j : Nat) : (Code.ofPath p).bits.getLsbD j = p.getD j false := by
  rw [Code.ofPath, BitVec.getLsbD_ofNat, testBit_pathNumber]
  by_cases hj : j < 255
  · simp [hj]
  · simp [hj, List.getElem?_eq_none (show p.length ≤ j by omega)]

theorem Code.path_ofPath : (Code.ofPath p).path = p := by
  rw [Code.path, Code.toNat_len_ofPath hp]
  refine List.ext_getElem (by simp) fun j hj hj' => ?_
  simp [Code.getLsbD_bits_ofPath hp, hj']

end

/-! ## The walk with its paths (R213) -/

/-- The stack `stack` of the walk comes down to the leaves `cs`, in the order of the walk, each with its path. -/
inductive Walked (tree : Vector Node 511) : List (NodeIndex × List Bool) → List (NodeIndex × List Bool) → Prop
  | nil : Walked tree [] []
  | leaf {n : NodeIndex} {p : List Bool} {stack cs : List (NodeIndex × List Bool)} (hn : n.toNat < 256)
      (h : Walked tree stack cs) : Walked tree ((n, p) :: stack) ((n, p) :: cs)
  | inner {n : NodeIndex} {p : List Bool} {stack cs : List (NodeIndex × List Bool)} (hn : ¬ n.toNat < 256)
      (h : Walked tree
        (((nodeAt tree n).child false, p ++ [false]) :: ((nodeAt tree n).child true, p ++ [true]) :: stack) cs) :
      Walked tree ((n, p) :: stack) cs

/-- A forest is walked from any paths of its nodes. -/
theorem Forest.exists_walked {tree : Vector Node 511} {ns ls : List NodeIndex} (h : Forest tree ns ls)
    {stack : List (NodeIndex × List Bool)} (hns : stack.map Prod.fst = ns) :
    ∃ cs, cs.map Prod.fst = ls ∧ Walked tree stack cs := by
  induction h generalizing stack with
  | nil =>
    obtain rfl := List.map_eq_nil_iff.1 hns
    exact ⟨[], rfl, .nil⟩
  | leaf hn _ ih =>
    obtain ⟨⟨n, p⟩, stack, rfl, rfl, rfl⟩ := List.map_eq_cons_iff.1 hns
    obtain ⟨cs, rfl, hcs⟩ := ih rfl
    exact ⟨(n, p) :: cs, rfl, .leaf hn hcs⟩
  | inner hn _ ih =>
    obtain ⟨⟨n, p⟩, stack, rfl, rfl, rfl⟩ := List.map_eq_cons_iff.1 hns
    obtain ⟨cs, hls, hcs⟩ := ih (stack := (_, p ++ [false]) :: (_, p ++ [true]) :: stack) rfl
    exact ⟨cs, hls, .inner hn hcs⟩

/-- The symbol of a leaf (R56). -/
def leafSymbol (c : NodeIndex × List Bool) : Byte := c.1.setWidth 8

/-- CB with a leaf's path as its symbol's code. -/
def writeCode (cb : Vector Code 256) (c : NodeIndex × List Bool) : Vector Code 256 :=
  setSymbol cb (leafSymbol c) (Code.ofPath c.2)

theorem writeCode_leaf (cb : Vector Code 256) {n : NodeIndex} (p : List Bool) (hn : n.toNat < 256) :
    writeCode cb (n, p) = cb.set n.toNat (Code.ofPath p) hn := by
  simp only [writeCode, setSymbol, leafSymbol, BitVec.toNat_setWidth, Nat.mod_eq_of_lt hn]

section
variable {tree : Vector Node 511} {stack cs : List (NodeIndex × List Bool)}

theorem Walked.length_le (h : Walked tree stack cs) : stack.length ≤ cs.length := by
  induction h with
  | nil => exact le_rfl
  | leaf _ _ ih => simpa using ih
  | inner _ _ ih => simp only [List.length_cons] at *; omega

/-- A walk with a pop for every node writes the path of every leaf. -/
theorem Walked.walk_eq (h : Walked tree stack cs) {fuel : Nat} (hfuel : 2 * cs.length ≤ fuel + stack.length)
    (cb : Vector Code 256) : walk tree fuel stack cb = cs.foldl writeCode cb := by
  induction h generalizing fuel cb with
  | nil => cases fuel <;> rfl
  | @leaf n p stack cs hn hw ih =>
    have hle := hw.length_le
    simp only [List.length_cons] at hfuel
    obtain ⟨fuel, rfl⟩ : ∃ f, fuel = f + 1 := ⟨fuel - 1, by omega⟩
    rw [walk, dif_pos hn, List.foldl_cons, writeCode_leaf cb p hn]
    exact ih (by omega) _
  | @inner n p stack cs hn hw ih =>
    have hle := hw.length_le
    simp only [List.length_cons] at hfuel hle
    obtain ⟨fuel, rfl⟩ : ∃ f, fuel = f + 1 := ⟨fuel - 1, by omega⟩
    rw [walk, dif_neg hn]
    exact ih (by simp only [List.length_cons]; omega) cb

theorem Walked.leaf_lt (h : Walked tree stack cs) : ∀ c ∈ cs, c.1.toNat < 256 := by
  induction h with
  | nil => simp
  | leaf hn _ ih => exact List.forall_mem_cons.2 ⟨hn, ih⟩
  | inner _ _ ih => exact ih

end

theorem atSymbol_foldl_writeCode_of_notMem {cs : List (NodeIndex × List Bool)} {k : Byte}
    (hk : k ∉ cs.map leafSymbol) (cb : Vector Code 256) : atSymbol (cs.foldl writeCode cb) k = atSymbol cb k := by
  induction cs generalizing cb with
  | nil => rfl
  | cons c cs ih =>
    rw [List.map_cons, List.mem_cons, not_or] at hk
    obtain ⟨hc, hcs⟩ := hk
    rw [List.foldl_cons, ih hcs, writeCode, atSymbol_setSymbol, if_neg (Ne.symm hc)]

theorem atSymbol_foldl_writeCode_of_mem {cs : List (NodeIndex × List Bool)} (hnodup : (cs.map leafSymbol).Nodup)
    {c : NodeIndex × List Bool} (hc : c ∈ cs) (cb : Vector Code 256) :
    atSymbol (cs.foldl writeCode cb) (leafSymbol c) = Code.ofPath c.2 := by
  induction cs generalizing cb with
  | nil => cases hc
  | cons d cs ih =>
    obtain ⟨hd, hcs⟩ := List.nodup_cons.1 hnodup
    rw [List.foldl_cons]
    rcases List.mem_cons.1 hc with rfl | hc
    · rw [atSymbol_foldl_writeCode_of_notMem hd, writeCode, atSymbol_setSymbol, if_pos rfl]
    · exact ih hcs hc _

end Sys2Proof.Machine

namespace Sys2Proof.Claims

open Sys2Proof.Machine

/-! ## Paths from the root (R215, R217) -/

/-- The index of a symbol's leaf is the symbol (R56). -/
theorem toNat_leafIndex (k : Byte) : (k.setWidth 9).toNat = k.toNat := by
  rw [BitVec.toNat_setWidth]
  omega

theorem leafIndex_lt (k : Byte) : (k.setWidth 9).toNat < 256 :=
  toNat_leafIndex k ▸ k.isLt

theorem leafIndex_injective : Function.Injective fun k : Byte => k.setWidth 9 := fun a b he => by
  have hnat := congrArg BitVec.toNat he
  rw [toNat_leafIndex, toNat_leafIndex] at hnat
  exact BitVec.eq_of_toNat_eq hnat

theorem toNat_child (v : Vector Node 511) (n : NodeIndex) (b : Bool) :
    ((nodeAt v n).child b).toNat = if b then rightN v n.toNat else leftN v n.toNat := by
  rw [leftN, rightN, nodeN_toNat]
  cases b <;> rfl

theorem descend_concat (v : Vector Node 511) (n : NodeIndex) (p : List Bool) (b : Bool) :
    descend v n (p ++ [b]) = (nodeAt v (descend v n p)).child b := by
  simp [descend, List.foldl_append]

/-- The path leads from the root to the node and passes internal nodes before its last move.  An internal node at
depth d is at most 510 - d, since a child's index is below its parent's; so a leaf's path has at most 255 moves. -/
structure OnPath (v : Vector Node 511) (n : NodeIndex) (p : List Bool) : Prop where
  leads : descend v root p = n
  passes : ∀ q, q <+: p → q ≠ p → 256 ≤ (descend v root q).toNat
  short : max n.toNat 255 + p.length ≤ 510

theorem onPath_root (v : Vector Node 511) : OnPath v root [] where
  leads := rfl
  passes q hq hne := absurd (List.prefix_nil.1 hq) hne
  short := by decide

section
variable {v : Vector Node 511}

theorem OnPath.length_le {n : NodeIndex} {p : List Bool} (h : OnPath v n p) : p.length ≤ 255 := by
  have := h.short
  omega

theorem OnPath.length_pos {n : NodeIndex} {p : List Bool} (h : OnPath v n p) (hn : n.toNat < 256) : 1 ≤ p.length := by
  refine List.length_pos_iff.2 fun he => ?_
  obtain rfl : root = n := by simpa [he, descend] using h.leads
  exact absurd hn (by decide)

/-- A leaf ends every path it is on: a path that goes on from it is the same path (R216). -/
theorem OnPath.eq_of_prefix {a b : NodeIndex} {p q : List Bool} (ha : OnPath v a p) (hleaf : a.toNat < 256)
    (hb : OnPath v b q) (hpq : p <+: q) : a = b := by
  by_cases he : p = q
  · exact ha.leads.symm.trans ((congrArg _ he).trans hb.leads)
  · have hinner := hb.passes p hpq he
    rw [ha.leads] at hinner
    omega

end

theorem IsHuffmanTree.toNat_child_lt {freq : Vector Word 256} {v : Vector Node 511} (h : IsHuffmanTree freq v)
    {n : NodeIndex} (hlow : ¬ n.toNat < 256) (hhigh : n.toNat ≤ 510) (b : Bool) :
    ((nodeAt v n).child b).toNat < n.toNat := by
  rw [toNat_child]
  cases b
  · exact h.left_lt (Nat.not_lt.1 hlow) hhigh
  · exact h.right_lt (Nat.not_lt.1 hlow) hhigh

section
variable {freq : Vector Word 256} {v : Vector Node 511} (htree : IsHuffmanTree freq v)
include htree

theorem OnPath.child {n : NodeIndex} {p : List Bool} (h : OnPath v n p) (hn : ¬ n.toNat < 256) (b : Bool) :
    OnPath v ((nodeAt v n).child b) (p ++ [b]) := by
  have hshort := h.short
  refine ⟨by rw [descend_concat, h.leads], fun q hq hne => ?_, ?_⟩
  · have hq : q <+: p := (List.prefix_concat_iff.1 hq).resolve_left hne
    by_cases he : q = p
    · rw [he, h.leads]
      omega
    · exact h.passes q hq he
  · have hlt := htree.toNat_child_lt hn (by omega) b
    rw [List.length_append, List.length_singleton]
    omega

end

/-! ## Equal frequencies (R218) -/

section
variable {freq : Vector Word 256} {v : Vector Node 511} (htree : IsHuffmanTree freq v) {x : Word}
  (hequal : ∀ k : Byte, atSymbol freq k = x)
include htree hequal

/-- With equal frequencies, node 256+j has the children 2j and 2j+1. -/
theorem IsHuffmanTree.toNat_child_of_equal {n : NodeIndex} (hlow : 256 ≤ n.toNat) (hhigh : n.toNat ≤ 510) (b : Bool) :
    ((nodeAt v n).child b).toNat = 2 * (n.toNat - 256) + b.toNat := by
  obtain ⟨hl, hr⟩ := htree.children_of_equal hequal (k := n.toNat - 256) (by omega)
  rw [Nat.add_sub_of_le hlow] at hl hr
  rw [toNat_child]
  cases b
  · simpa using hl
  · simpa using hr

/-- With equal frequencies, level d of the tree is the nodes 512 - 2^(d+1) .. 511 - 2^d in order, so that a path of at
most 8 moves reaches the one its bits number, c_0 highest. -/
theorem IsHuffmanTree.toNat_descend_of_equal {p : List Bool} (hp : p.length ≤ 8) :
    (descend v root p).toNat + 2 ^ (p.length + 1) = 512 + pathNumber p.reverse := by
  induction p using List.reverseRecOn with
  | nil =>
    have hroot : root.toNat = 510 := rfl
    simp [descend, pathNumber, hroot]
  | append_singleton p b ih =>
    rw [List.length_append, List.length_singleton] at hp
    have hprefix := ih (by omega)
    have hnumber := pathNumber_lt p.reverse
    have hlevel : 2 ^ (p.length + 1) ≤ 2 ^ 8 := Nat.pow_le_pow_right (by omega) hp
    rw [List.length_reverse] at hnumber
    rw [Nat.pow_succ] at hprefix hlevel
    rw [descend_concat, htree.toNat_child_of_equal hequal (by omega) (by omega), List.length_append,
      List.length_singleton, List.reverse_append, List.reverse_singleton, List.singleton_append, pathNumber,
      Nat.pow_succ, Nat.pow_succ]
    omega

/-- With equal frequencies, every leaf is at depth 8. -/
theorem OnPath.length_of_equal {n : NodeIndex} {p : List Bool} (h : OnPath v n p) (hn : n.toNat < 256) :
    p.length = 8 := by
  have hlong : 8 ≤ p.length := by
    by_contra hlt
    have hdescend := htree.toNat_descend_of_equal hequal (p := p) (by omega)
    have hlevel : 2 ^ (p.length + 1) ≤ 2 ^ 8 := Nat.pow_le_pow_right (by omega) (by omega)
    rw [h.leads] at hdescend
    omega
  by_contra hne
  have htake : (p.take 8).length = 8 := List.length_take_of_le hlong
  have hdescend := htree.toNat_descend_of_equal hequal htake.le
  have hnumber := pathNumber_lt (p.take 8).reverse
  have hinner := h.passes (p.take 8) (List.take_prefix 8 p) fun he => hne (he ▸ htake)
  rw [List.length_reverse] at hnumber
  rw [htake] at hdescend hnumber
  omega

/-- With equal frequencies, bit j of a symbol's path is bit 7-j of the symbol. -/
theorem OnPath.getD_of_equal {k : Byte} {p : List Bool} (h : OnPath v (k.setWidth 9) p) (hp : p.length = 8) {j : Nat}
    (hj : j ≤ 7) : p.getD j false = k.getLsbD (7 - j) := by
  have hdescend := htree.toNat_descend_of_equal hequal hp.le
  rw [h.leads, hp, toNat_leafIndex] at hdescend
  have hk : k.toNat = pathNumber p.reverse := by omega
  rw [BitVec.getLsbD, hk, testBit_pathNumber, List.getD_eq_getElem?_getD, List.getD_eq_getElem?_getD,
    List.getElem?_reverse (by omega), show p.length - 1 - (7 - j) = j by omega]

end

end Sys2Proof.Claims

namespace Sys2Proof.Machine

open Sys2Proof.Claims

/-! ## The walk keeps to paths from the root -/

section
variable {freq : Vector Word 256} {v : Vector Node 511} (htree : IsHuffmanTree freq v)
include htree

/-- One pop at an internal node keeps a stack of paths from the root. -/
theorem forall_onPath_children {n : NodeIndex} {p : List Bool} {stack : List (NodeIndex × List Bool)}
    (hn : ¬ n.toNat < 256) (hstack : ∀ c ∈ (n, p) :: stack, OnPath v c.1 c.2) :
    ∀ c ∈ ((nodeAt v n).child false, p ++ [false]) :: ((nodeAt v n).child true, p ++ [true]) :: stack,
      OnPath v c.1 c.2 := by
  obtain ⟨h, hrest⟩ := List.forall_mem_cons.1 hstack
  exact List.forall_mem_cons.2 ⟨h.child htree hn false, List.forall_mem_cons.2 ⟨h.child htree hn true, hrest⟩⟩

theorem Walked.onPath {stack cs : List (NodeIndex × List Bool)} (h : Walked v stack cs)
    (hstack : ∀ c ∈ stack, OnPath v c.1 c.2) : ∀ c ∈ cs, OnPath v c.1 c.2 := by
  induction h with
  | nil => simp
  | leaf hn _ ih =>
    obtain ⟨hc, hrest⟩ := List.forall_mem_cons.1 hstack
    exact List.forall_mem_cons.2 ⟨hc, ih hrest⟩
  | inner hn _ ih => exact ih (forall_onPath_children htree hn hstack)

end

/-! ## Kraft's sum (R216) -/

/-- A path's term of Kraft's sum, 2^(-len), scaled by 2^255. -/
def kraftTerm (c : NodeIndex × List Bool) : Nat := 2 ^ (255 - c.2.length)

/-- The two paths one move longer share the term of a path. -/
theorem kraftTerm_children {n m m' : NodeIndex} {p : List Bool} {b b' : Bool} (hp : p.length ≤ 254) :
    kraftTerm (m, p ++ [b]) + kraftTerm (m', p ++ [b']) = kraftTerm (n, p) := by
  simp only [kraftTerm, List.length_append, List.length_singleton]
  rw [show 255 - p.length = 255 - (p.length + 1) + 1 by omega, Nat.pow_succ]
  omega

theorem Walked.sum_kraftTerm {freq : Vector Word 256} {v : Vector Node 511} (htree : IsHuffmanTree freq v)
    {stack cs : List (NodeIndex × List Bool)} (h : Walked v stack cs) (hstack : ∀ c ∈ stack, OnPath v c.1 c.2) :
    (cs.map kraftTerm).sum = (stack.map kraftTerm).sum := by
  induction h with
  | nil => rfl
  | leaf hn _ ih =>
    rw [List.map_cons, List.map_cons, List.sum_cons, List.sum_cons, ih (List.forall_mem_cons.1 hstack).2]
  | @inner n p stack cs hn _ ih =>
    have hshort : max n.toNat 255 + p.length ≤ 510 := (hstack _ List.mem_cons_self).short
    rw [ih (forall_onPath_children htree hn hstack)]
    simp only [List.map_cons, List.sum_cons]
    rw [← Nat.add_assoc, kraftTerm_children (n := n) (by omega)]

/-! ## The book of a built tree (R215) -/

/-- The symbols in ascending order (R9). -/
def symbols : List Byte := (List.range 256).map (BitVec.ofNat 8)

theorem toList_eq_map_atSymbol {α : Type} (v : Vector α 256) : v.toList = symbols.map (atSymbol v) := by
  refine List.ext_getElem (by simp [symbols]) fun i hi hi' => ?_
  have hlt : i < 256 := by simpa using hi
  simp [symbols, atSymbol, Nat.mod_eq_of_lt hlt]

theorem mem_symbols (k : Byte) : k ∈ symbols :=
  List.mem_map.2 ⟨k.toNat, List.mem_range.2 k.isLt, by rw [BitVec.ofNat_toNat, BitVec.setWidth_eq]⟩

theorem symbols_nodup : symbols.Nodup := by
  refine List.Nodup.map_on (fun i hi j hj he => ?_) List.nodup_range
  have hmod := congrArg BitVec.toNat he
  rw [List.mem_range] at hi hj
  rwa [BitVec.toNat_ofNat, BitVec.toNat_ofNat, Nat.mod_eq_of_lt hi, Nat.mod_eq_of_lt hj] at hmod

section
variable {freq : Vector Word 256} {old v : Vector Node 511} (hv : v = buildTree freq old)
include hv

/-- The walk from the root of a built tree comes down to every symbol's leaf, once. -/
theorem exists_walked_root : ∃ cs, Walked v [(root, [])] cs ∧ (cs.map leafSymbol).Perm symbols := by
  subst hv
  obtain ⟨ls, hperm, hforest⟩ := buildTree_forest freq old
  obtain ⟨cs, rfl, hwalked⟩ := hforest.exists_walked (stack := [(root, [])]) rfl
  have hsymbols : ((List.range 256).map (BitVec.ofNat 9)).map (BitVec.setWidth 8) = symbols := by
    rw [List.map_map, symbols]
    refine List.map_congr_left fun i _ => BitVec.eq_of_toNat_eq ?_
    simp only [Function.comp_apply, BitVec.toNat_setWidth, BitVec.toNat_ofNat]
    omega
  have hcut := hperm.map (BitVec.setWidth 8)
  rw [List.map_map, hsymbols] at hcut
  exact ⟨cs, hwalked, hcut⟩

/-- DERIVE makes each symbol's code of the path the walk found to its leaf, and those paths are all. -/
theorem exists_walked_deriveBook (cb : Vector Code 256) : ∃ cs, Walked v [(root, [])] cs ∧
    (cs.map leafSymbol).Perm symbols ∧
    ∀ c ∈ cs, atSymbol (deriveBook v cb) (leafSymbol c) = Code.ofPath c.2 ∧ OnPath v c.1 c.2 := by
  obtain ⟨cs, hwalked, hperm⟩ := exists_walked_root hv
  have hlen : cs.length = 256 := by simpa [symbols] using hperm.length_eq
  have hnodup : (cs.map leafSymbol).Nodup := hperm.nodup_iff.2 symbols_nodup
  have hbook : deriveBook v cb = cs.foldl writeCode cb := hwalked.walk_eq (by simp [hlen]) cb
  have hpath := hwalked.onPath (hv ▸ buildTree_isHuffmanTree freq old) (by simp [onPath_root])
  exact ⟨cs, hwalked, hperm, fun c hc => ⟨hbook ▸ atSymbol_foldl_writeCode_of_mem hnodup hc cb, hpath c hc⟩⟩

/-- Every derived code is a path from the root to its symbol's leaf. -/
theorem exists_path_deriveBook (cb : Vector Code 256) (k : Byte) :
    ∃ p, atSymbol (deriveBook v cb) k = Code.ofPath p ∧ OnPath v (k.setWidth 9) p := by
  obtain ⟨cs, hwalked, hperm, hcode⟩ := exists_walked_deriveBook hv cb
  have hk : k ∈ cs.map leafSymbol := hperm.mem_iff.2 (mem_symbols k)
  obtain ⟨⟨n, p⟩, hc, rfl⟩ := List.mem_map.1 hk
  obtain ⟨hbook, hpath⟩ := hcode _ hc
  have hn : n.toNat < 256 := hwalked.leaf_lt _ hc
  have hsymbol : (leafSymbol (n, p)).setWidth 9 = n := by
    apply BitVec.eq_of_toNat_eq
    simp only [leafSymbol, BitVec.toNat_setWidth]
    omega
  exact ⟨p, hbook, hsymbol.symm ▸ hpath⟩

theorem onPath_deriveBook (cb : Vector Code 256) (k : Byte) :
    OnPath v (k.setWidth 9) (atSymbol (deriveBook v cb) k).path := by
  obtain ⟨p, hbook, hpath⟩ := exists_path_deriveBook hv cb k
  rwa [hbook, Code.path_ofPath hpath.length_le]

theorem sum_kraft_deriveBook (cb : Vector Code 256) :
    ((deriveBook v cb).toList.map fun c => 2 ^ (255 - c.len.toNat)).sum = 2 ^ 255 := by
  obtain ⟨cs, hwalked, hperm, hcode⟩ := exists_walked_deriveBook hv cb
  have hterm : ∀ c ∈ cs, 2 ^ (255 - (atSymbol (deriveBook v cb) (leafSymbol c)).len.toNat) = kraftTerm c := by
    intro c hc
    obtain ⟨hbook, hpath⟩ := hcode c hc
    rw [hbook, Code.toNat_len_ofPath hpath.length_le, kraftTerm]
  calc ((deriveBook v cb).toList.map fun c => 2 ^ (255 - c.len.toNat)).sum
      = (symbols.map fun k => 2 ^ (255 - (atSymbol (deriveBook v cb) k).len.toNat)).sum := by
        rw [toList_eq_map_atSymbol, List.map_map]
        rfl
    _ = ((cs.map leafSymbol).map fun k => 2 ^ (255 - (atSymbol (deriveBook v cb) k).len.toNat)).sum :=
        (hperm.symm.map _).sum_eq
    _ = (cs.map kraftTerm).sum := by
        rw [List.map_map]
        exact congrArg List.sum (List.map_congr_left hterm)
    _ = ([(root, [])].map kraftTerm).sum :=
        hwalked.sum_kraftTerm (hv ▸ buildTree_isHuffmanTree freq old) (by simp [onPath_root])
    _ = 2 ^ 255 := rfl

end

/-! ## DERIVE -/

theorem exec_derive_noTree {s : State} (h : s.status.treeValid = false) :
    exec .derive s = .next (raise (Instr.opcode .derive) .sequence 0 s) := by
  rcases deriveRun_cases s with ⟨-, hrun⟩ | ⟨htree, -⟩
  · rw [exec_eq, commandRun, hrun, Run.conclude_raised]
  · exact absurd (h.symm.trans htree) (by decide)

theorem exec_derive_tree {s : State} (h : s.status.treeValid = true) :
    exec .derive s =
      .next (complete { s with cb := deriveBook s.node s.cb, status := s.status.bookDerived }) := by
  rcases deriveRun_cases s with ⟨hnone, -⟩ | ⟨-, hrun⟩
  · exact absurd (hnone.symm.trans h) (by decide)
  · rw [exec_eq, commandRun, hrun, Run.conclude_finished]

end Sys2Proof.Machine

namespace Sys2Proof.Proofs

open Sys2Proof.Machine Sys2Proof.Claims

/-- Settles O20: NODE is a built tree, and each code is the path that the walk found to its symbol's leaf. -/
theorem codesLeadToTheirLeaves : Obligations.CodesLeadToTheirLeaves := by
  unfold Obligations.CodesLeadToTheirLeaves
  intro s hinv hvalid
  refine ⟨_, exec_derive_tree hvalid, fun k => ?_⟩
  obtain ⟨p, hbook, hpath⟩ := exists_path_deriveBook (hinv.treeCurrent hvalid) s.cb k
  have hlen := hpath.length_le
  rw [complete_cb, complete_node, hbook, Code.toNat_len_ofPath hlen, Code.path_ofPath hlen]
  refine ⟨hpath.length_pos (leafIndex_lt k), hlen, hpath.leads, hpath.passes, fun j hj => ?_⟩
  rw [Code.getLsbD_bits_ofPath hlen, List.getD_eq_default _ _ hj]

/-- Settles O21: a path that goes on from a leaf would pass a leaf before its last move. -/
theorem codesArePrefixFree : Obligations.CodesArePrefixFree := by
  unfold Obligations.CodesArePrefixFree
  intro s hinv hvalid
  refine ⟨_, exec_derive_tree hvalid, fun a b hne hprefix => hne ?_⟩
  have hpath := onPath_deriveBook (hinv.treeCurrent hvalid) s.cb
  exact leafIndex_injective ((hpath a).eq_of_prefix (leafIndex_lt a) (hpath b) hprefix)

/-- Settles O22: an internal node's term is shared by its children, so that the leaves' terms add up to the root's. -/
theorem codeLengthsMeetKraft : Obligations.CodeLengthsMeetKraft := by
  unfold Obligations.CodeLengthsMeetKraft
  exact fun s hinv hvalid =>
    ⟨_, exec_derive_tree hvalid, sum_kraft_deriveBook (hinv.treeCurrent hvalid) s.cb⟩

/-- Settles O23: the tree of equal frequencies is perfect, and each level's nodes are in the order of their paths. -/
theorem equalFrequenciesGiveBinaryCodes : Obligations.EqualFrequenciesGiveBinaryCodes := by
  unfold Obligations.EqualFrequenciesGiveBinaryCodes
  intro s x hequal
  refine ⟨_, _, exec_build s, exec_derive_tree rfl, fun k => ?_⟩
  have htree := buildTree_isHuffmanTree s.freq s.node
  obtain ⟨p, hbook, hpath⟩ := exists_path_deriveBook (v := buildTree s.freq s.node) rfl s.cb k
  have hlen := hpath.length_of_equal htree hequal (leafIndex_lt k)
  simp only [complete_cb, complete_node, hbook]
  refine ⟨by rw [Code.ofPath, hlen]; rfl, fun j hj => ?_⟩
  rw [Code.getLsbD_bits_ofPath hpath.length_le, hpath.getD_of_equal htree hequal hlen hj]

/-- Settles O19: DERIVE's two cases, by TREE_VALID. -/
theorem deriveNeedsATree : Obligations.DeriveNeedsATree := by
  unfold Obligations.DeriveNeedsATree
  exact fun s => ⟨exec_derive_noTree, fun hvalid => ⟨_, exec_derive_tree hvalid, rfl⟩⟩

end Sys2Proof.Proofs

/-! # The archive PACK writes (R226 to R232)

After any number of code bits PACK's hidden state and OBUF are `Packing.after` of those bits: `packedByte bits k` is
byte k of the payload they make, and OBUF has one `writeFrom` more, of the bytes they fill.  A bit more keeps that form
(`Packing.put_after`), so the loop comes to the end of a bit string or to the first byte that OBUF does not have, and in
both cases OBUF is `archiveBytes` written from index 0. -/

namespace Sys2Proof.Machine

open Sys2Proof.Claims

/-! ## Blocks of writes -/

theorem Memory.writeFrom_append (m : Memory) (i : Nat) (bs cs : List Byte) :
    m.writeFrom i (bs ++ cs) = (m.writeFrom i bs).writeFrom (i + bs.length) cs := by
  induction bs generalizing m i with
  | nil => rfl
  | cons b bs ih =>
    rw [List.cons_append, Memory.writeFrom, ih, Memory.writeFrom, List.length_cons, Nat.add_right_comm, Nat.add_assoc]

section
variable {s t : State} {bs : List Byte} (hobuf : t.obuf = s.obuf.writeFrom 0 bs) (hepoch : t.obufEpoch = s.obufEpoch)

include hobuf in
theorem obufAt_writeFrom_zero {a : Nat} {b : Byte} (h : bs[a]? = some b) : t.obufAt a = b := by
  have ha : a < bs.length := (List.getElem?_eq_some_iff.1 h).1
  rw [State.obufAt, hobuf, Memory.lookup_writeFrom, if_pos ⟨Nat.zero_le a, by omega⟩, Nat.sub_zero, h,
    Option.getD_some]

include hobuf hepoch in
theorem obufAt_writeFrom_zero_above {a : Nat} (h : bs.length ≤ a) : t.obufAt a = s.obufAt a := by
  rw [State.obufAt, hobuf, hepoch, Memory.lookup_writeFrom, if_neg (by omega), State.obufAt]

end

/-! ## The payload's bytes (R230, R231) -/

/-- Byte k of the payload of a bit string: its bits 8k to 8k+7, the first lowest, and 0 past its end. -/
def packedByte (bits : List Bool) (k : Nat) : Byte := BitVec.ofNat 8 (pathNumber (bits.drop (8 * k)))

theorem getLsbD_packedByte (bits : List Bool) (k : Nat) {j : Nat} (hj : j < 8) :
    (packedByte bits k).getLsbD j = bits.getD (8 * k + j) false := by
  rw [packedByte, BitVec.getLsbD_ofNat, testBit_pathNumber]
  simp [hj]

theorem packedByte_eq_zero {bits : List Bool} {k : Nat} (h : bits.length ≤ 8 * k) : packedByte bits k = 0 := by
  rw [packedByte, List.drop_eq_nil_of_le h]
  rfl

/-- More bits do not change a byte that is full. -/
theorem packedByte_append {bits : List Bool} {k : Nat} (h : 8 * (k + 1) ≤ bits.length) (more : List Bool) :
    packedByte (bits ++ more) k = packedByte bits k := by
  refine BitVec.eq_of_getLsbD_eq fun j hj => ?_
  rw [getLsbD_packedByte _ _ hj, getLsbD_packedByte _ _ hj, List.getD_append _ _ _ _ (by omega)]

/-- The next bit goes above the bits that the last byte has. -/
theorem packedByte_concat (bits : List Bool) (bit : Bool) :
    packedByte (bits ++ [bit]) (bits.length / 8) =
      packedByte bits (bits.length / 8) ||| ((BitVec.ofBool bit).setWidth 8 <<< (bits.length % 8)) := by
  refine BitVec.eq_of_getLsbD_eq fun j hj => ?_
  have hsplit := Nat.div_add_mod bits.length 8
  rw [BitVec.getLsbD_or, getLsbD_packedByte _ _ hj, getLsbD_packedByte _ _ hj, BitVec.getLsbD_shiftLeft,
    BitVec.getLsbD_setWidth, BitVec.getLsbD_ofBool]
  rcases Nat.lt_trichotomy j (bits.length % 8) with hbelow | rfl | habove
  · rw [List.getD_append _ _ _ _ (by omega)]
    simp [hbelow]
  · simp [hsplit, hj]
  · rw [List.getD_eq_default _ _ (by simp; omega), List.getD_eq_default _ _ (by omega)]
    simp [show j - bits.length % 8 ≠ 0 by omega]

/-- The first n bytes of the payload. -/
def packedBytes (bits : List Bool) (n : Nat) : List Byte := (List.range n).map (packedByte bits)

@[simp] theorem length_packedBytes (bits : List Bool) (n : Nat) : (packedBytes bits n).length = n := by
  simp [packedBytes]

theorem packedBytes_succ (bits : List Bool) (n : Nat) :
    packedBytes bits (n + 1) = packedBytes bits n ++ [packedByte bits n] := by
  rw [packedBytes, List.range_succ, List.map_append]
  rfl

theorem packedBytes_append {bits : List Bool} {n : Nat} (h : 8 * n ≤ bits.length) (more : List Bool) :
    packedBytes (bits ++ more) n = packedBytes bits n :=
  List.map_congr_left fun k hk => packedByte_append (by have := List.mem_range.1 hk; omega) more

/-! ## The loop (R226) -/

/-- PACK's hidden state once the given bits are placed, in OBUF `m` with the header. -/
def Packing.after (m : Memory) (bits : List Bool) : Packing :=
  ⟨bits.length, packedByte bits (bits.length / 8), m.writeFrom hdrLen (packedBytes bits (bits.length / 8))⟩

@[simp] theorem Packing.pos_after (m : Memory) (bits : List Bool) : (Packing.after m bits).pos = bits.length := rfl

theorem Packing.after_nil (m : Memory) : Packing.after m [] = ⟨0, 0, m⟩ := rfl

theorem writeFrom_packedBytes_succ (m : Memory) (bits : List Bool) (n : Nat) :
    m.writeFrom hdrLen (packedBytes bits (n + 1)) =
      (m.writeFrom hdrLen (packedBytes bits n)).write (hdrLen + n) (packedByte bits n) := by
  rw [packedBytes_succ, Memory.writeFrom_append, length_packedBytes]
  rfl

theorem Packing.put_after (m : Memory) (bits : List Bool) (bit : Bool) :
    (Packing.after m bits).put bit = Packing.after m (bits ++ [bit]) := by
  have hkeep := packedBytes_append (bits := bits) (n := bits.length / 8) (by omega) [bit]
  simp only [Packing.put, Packing.after, ← packedByte_concat, List.length_append, List.length_singleton, ← hkeep]
  split
  · have hnext : (bits.length + 1) / 8 = bits.length / 8 + 1 := by omega
    have hempty : (bits ++ [bit]).length ≤ 8 * (bits.length / 8 + 1) := by simp; omega
    rw [hnext, packedByte_eq_zero hempty, writeFrom_packedBytes_succ, ← Nat.add_assoc, Nat.add_sub_cancel]
  · rw [show (bits.length + 1) / 8 = bits.length / 8 by omega]

theorem Packing.flush_after (m : Memory) (bits : List Bool) :
    (Packing.after m bits).flush = m.writeFrom hdrLen (packedBytes bits (payloadBytes bits.length)) := by
  rw [Packing.flush, Packing.pos_after, payloadBytes]
  split
  · rw [show (bits.length + 7) / 8 = bits.length / 8 by omega, Packing.after]
  · rw [show (bits.length + 7) / 8 = bits.length / 8 + 1 by omega, writeFrom_packedBytes_succ, Packing.after]

/-- Whole bytes of a bit string leave OBUF with the first bytes of its payload. -/
theorem Packing.obuf_after_take (m : Memory) {bits : List Bool} {n : Nat} (h : 8 * n ≤ bits.length) :
    (Packing.after m (bits.take (8 * n))).obuf = m.writeFrom hdrLen (packedBytes bits n) := by
  have hlen : (bits.take (8 * n)).length = 8 * n := List.length_take_of_le h
  have hbytes := packedBytes_append hlen.ge (bits.drop (8 * n))
  rw [List.take_append_drop] at hbytes
  rw [hbytes, Packing.after, hlen, Nat.mul_div_cancel_left n (by decide)]

/-- The loop places every bit whose byte OBUF has. -/
theorem packBits_append {size : Nat} (m : Memory) (placed : List Bool) (here rest : List (Nat × Bool))
    (hfit : hdrLen + payloadBytes (placed.length + here.length) ≤ size) :
    packBits size (here ++ rest) (Packing.after m placed) =
      packBits size rest (Packing.after m (placed ++ here.map Prod.snd)) := by
  induction here generalizing placed with
  | nil => simp
  | cons c here ih =>
    obtain ⟨i, bit⟩ := c
    rw [List.length_cons] at hfit
    have hroom : ¬ (placed.length % 8 = 0 ∧ size ≤ hdrLen + placed.length / 8) := by
      rw [payloadBytes] at hfit
      omega
    have hnext : hdrLen + payloadBytes ((placed ++ [bit]).length + here.length) ≤ size := by
      rwa [List.length_append, List.length_singleton, Nat.add_assoc, Nat.add_comm 1]
    rw [List.cons_append, packBits, Packing.pos_after, if_neg hroom, Packing.put_after, ih _ hnext, List.map_cons,
      List.append_assoc, List.singleton_append]

theorem packBits_all {size : Nat} (m : Memory) {bits : List (Nat × Bool)}
    (hfit : hdrLen + payloadBytes bits.length ≤ size) :
    packBits size bits ⟨0, 0, m⟩ = .all (Packing.after m (bits.map Prod.snd)) := by
  have h := packBits_append m [] bits [] (by simpa using hfit)
  rwa [List.append_nil] at h

/-- Where the payload has a byte more than OBUF, the loop stops at the first bit of it. -/
theorem packBits_overflow (m : Memory) {bits : List (Nat × Bool)} {room : Nat} (hmore : 8 * room < bits.length) :
    packBits (hdrLen + room) bits ⟨0, 0, m⟩ =
      .overflow bits[8 * room].1 (Packing.after m ((bits.map Prod.snd).take (8 * room))) := by
  have hlen : (bits.take (8 * room)).length = 8 * room := List.length_take_of_le hmore.le
  have h := packBits_append (size := hdrLen + room) m [] (bits.take (8 * room)) (bits.drop (8 * room))
    (by rw [hlen, payloadBytes, List.length_nil]; omega)
  rw [List.take_append_drop, Packing.after_nil, List.nil_append, List.map_take] at h
  have hplaced : ((bits.map Prod.snd).take (8 * room)).length = 8 * room :=
    List.length_take_of_le (by simpa using hmore.le)
  rw [h, List.drop_eq_getElem_cons hmore, packBits, if_pos (by rw [Packing.pos_after, hplaced]; omega)]

/-! ## The code bits and the bytes they belong to (R230, R232) -/

theorem codeBits_concat (cb : Vector Code 256) (data : List Byte) (x : Byte) :
    codeBits cb (data ++ [x]) = codeBits cb data ++ (atSymbol cb x).path.map fun bit => (data.length, bit) := by
  simp [codeBits, List.zipIdx_append]

theorem map_snd_codeBits (cb : Vector Code 256) (data : List Byte) :
    (codeBits cb data).map Prod.snd = data.flatMap fun x => (atSymbol cb x).path := by
  induction data using List.reverseRecOn with
  | nil => rfl
  | append_singleton data x ih =>
    rw [codeBits_concat, List.map_append, ih, List.flatMap_append, List.flatMap_singleton, List.map_map]
    exact congrArg _ (List.map_id _)

theorem length_codeBits (cb : Vector Code 256) (data : List Byte) :
    (codeBits cb data).length = (data.flatMap fun x => (atSymbol cb x).path).length := by
  rw [← map_snd_codeBits, List.length_map]

theorem map_snd_codeBits_input (s : State) : (codeBits s.cb s.input).map Prod.snd = codeString s :=
  map_snd_codeBits s.cb s.input

theorem length_codeBits_input (s : State) : (codeBits s.cb s.input).length = (codeString s).length :=
  length_codeBits s.cb s.input

/-- The index with code bit n is that of the data byte whose code begins at or before n and ends after n. -/
theorem codeBits_index (cb : Vector Code 256) (data : List Byte) (n : Nat) (h : n < (codeBits cb data).length) :
    ∃ i < data.length, (codeBits cb data)[n].1 = i ∧
      (codeBits cb (data.take i)).length ≤ n ∧ n < (codeBits cb (data.take (i + 1))).length := by
  induction data using List.reverseRecOn with
  | nil => exact absurd h (Nat.not_lt_zero n)
  | append_singleton data x ih =>
    simp only [codeBits_concat]
    by_cases hn : n < (codeBits cb data).length
    · obtain ⟨i, hi, hidx, hbegin, hend⟩ := ih hn
      refine ⟨i, by simp; omega, ?_, ?_, ?_⟩
      · rwa [List.getElem_append_left hn]
      · rwa [List.take_append_of_le_length hi.le]
      · rwa [List.take_append_of_le_length hi]
    · refine ⟨data.length, by simp, ?_, ?_, ?_⟩
      · rw [List.getElem_append_right (by omega), List.getElem_map]
      · rw [List.take_left]
        omega
      · rwa [List.take_of_length_le (by simp)]

/-! ## The archive in OBUF (R227, R228, R230) -/

/-- The archive's header and the first n bytes of its payload. -/
def archiveBytes (s : State) (n : Nat) : List Byte := headerBytes s.inLen s.freq ++ packedBytes (codeString s) n

theorem length_archiveBytes (s : State) (n : Nat) : (archiveBytes s n).length = hdrLen + n := by
  rw [archiveBytes, List.length_append, headerBytes_length, length_packedBytes]

/-- The state in which PACK has written the header and the first n bytes of the payload. -/
def withArchive (s : State) (n : Nat) : State :=
  { packHeader s with obuf := s.obuf.writeFrom 0 (archiveBytes s n) }

theorem withArchive_eq (s : State) (n : Nat) :
    withArchive s n =
      { packHeader s with obuf := (packHeader s).obuf.writeFrom hdrLen (packedBytes (codeString s) n) } := by
  rw [withArchive, packHeader_obuf, archiveBytes, Memory.writeFrom_append, headerBytes_length, Nat.zero_add]

theorem getElem?_headerBytes_length (len : Word) (freq : Vector Word 256) {k : Nat} (hk : k < 4) :
    (headerBytes len freq)[k]? = some (wordByte len k) := by
  rw [headerBytes, List.getElem?_append_left (by simpa using hk)]
  simp [hk]

theorem getElem?_headerBytes_freq (len : Word) (freq : Vector Word 256) (k : Byte) :
    (headerBytes len freq)[4 + k.toNat]? = some ((atSymbol freq k).extractLsb' 0 8) := by
  rw [headerBytes, List.getElem?_append_right (by simp)]
  simp [atSymbol, BitVec.setWidth_eq_extractLsb', k.isLt]

/-- OBUF of t holds the archive of s up to its first n payload bytes, and no other byte of it is changed. -/
structure HoldsArchive (s t : State) (n : Nat) : Prop where
  length : ∀ k, k < 4 → t.obufAt k = s.inLen.extractLsb' (8 * k) 8
  frequency : ∀ k : Byte, t.obufAt (4 + k.toNat) = (atSymbol s.freq k).extractLsb' 0 8
  payload : ∀ k, k < n → t.obufAt (hdrLen + k) = packedByte (codeString s) k
  rest : ∀ a, hdrLen + n ≤ a → t.obufAt a = s.obufAt a

theorem holdsArchive_of_obuf {s t : State} {n : Nat} (hobuf : t.obuf = s.obuf.writeFrom 0 (archiveBytes s n))
    (hepoch : t.obufEpoch = s.obufEpoch) : HoldsArchive s t n where
  length k hk := obufAt_writeFrom_zero hobuf <| by
    rw [archiveBytes, List.getElem?_append_left (by rw [headerBytes_length, hdrLen]; omega),
      getElem?_headerBytes_length _ _ hk, wordByte]
  frequency k := obufAt_writeFrom_zero hobuf <| by
    rw [archiveBytes, List.getElem?_append_left (by rw [headerBytes_length, hdrLen]; omega), getElem?_headerBytes_freq]
  payload k hk := obufAt_writeFrom_zero hobuf <| by
    rw [archiveBytes, List.getElem?_append_right (by rw [headerBytes_length]; omega), headerBytes_length,
      Nat.add_sub_cancel_left, packedBytes, List.getElem?_map, List.getElem?_range hk, Option.map_some]
  rest a ha := obufAt_writeFrom_zero_above hobuf hepoch (by rwa [length_archiveBytes])

theorem HoldsArchive.bit {s t : State} {n : Nat} (h : HoldsArchive s t n) {p : Nat} (hp : p / 8 < n) :
    (t.obufAt (260 + p / 8)).getLsbD (p % 8) = (codeString s).getD p false := by
  rw [show 260 + p / 8 = hdrLen + p / 8 from rfl, h.payload _ hp, getLsbD_packedByte _ _ (Nat.mod_lt p (by decide)),
    Nat.div_add_mod]

theorem HoldsArchive.packedArchive {s t : State} (h : HoldsArchive s t (payloadBytes (codeString s).length))
    (houtLen : t.outLen.toNat = 260 + payloadBytes (codeString s).length)
    (hbitCnt : t.bitCnt.toNat = (codeString s).length) : PackedArchive s t where
  length := h.length
  frequency := h.frequency
  payload p hp := by
    rw [h.bit (by rw [payloadBytes]; omega), List.getD_eq_getElem _ _ hp]
  pad p hp hlast := by rw [h.bit hlast, List.getD_eq_default _ _ hp]
  rest := h.rest
  outLen := houtLen
  bitCnt := hbitCnt

theorem losesCount_iff (freq : Vector Word 256) : losesCount freq = true ↔ truncates freq := by
  rw [losesCount, toList_eq_map_atSymbol, List.any_map, List.any_eq_true]
  exact ⟨fun ⟨k, _, hk⟩ => ⟨k, of_decide_eq_true hk⟩, fun ⟨k, hk⟩ => ⟨k, mem_symbols k, decide_eq_true hk⟩⟩

theorem headerWritten_trunc_iff (t : Status) (freq : Vector Word 256) :
    (t.headerWritten freq).trunc = true ↔ t.trunc = true ∨ truncates freq := by
  rw [Status.headerWritten, Bool.or_eq_true, losesCount_iff]

/-! ## PACK -/

theorem exec_pack_noBook {s : State} (h : s.status.cbValid = false) :
    exec .pack s = .next (raise (Instr.opcode .pack) .sequence 0 s) := by
  rcases packRun_cases s with ⟨-, hrun⟩ | ⟨hbook, -⟩ | ⟨hbook, -⟩
  · rw [exec_eq, commandRun, hrun, Run.conclude_raised]
  · exact absurd (h.symm.trans hbook) (by decide)
  · exact absurd (h.symm.trans hbook) (by decide)

theorem exec_pack_outOfRange {s : State} (hbook : s.status.cbValid = true) (h : s.ibufSize < s.inLen) :
    exec .pack s = .next (raise (Instr.opcode .pack) .inRange 0 s) := by
  rcases packRun_cases s with ⟨hnone, -⟩ | ⟨-, -, hrun⟩ | ⟨-, hok, -⟩
  · exact absurd (hnone.symm.trans hbook) (by decide)
  · rw [exec_eq, commandRun, hrun, Run.conclude_raised]
  · exact absurd h hok

section
variable {s : State} (hbook : s.status.cbValid = true) (hin : ¬ s.ibufSize < s.inLen)
include hbook hin

theorem exec_pack_payload : exec .pack s = .next (packPayload (packHeader s)).conclude := by
  rcases packRun_cases s with ⟨hnone, -⟩ | ⟨-, hout, -⟩ | ⟨-, -, hrun⟩
  · exact absurd (hnone.symm.trans hbook) (by decide)
  · exact absurd hout hin
  · rw [exec_eq, commandRun, hrun]

theorem exec_pack_fits (hfit : hdrLen + payloadBytes (codeString s).length ≤ s.obufSize.toNat) :
    exec .pack s =
      .next (complete { withArchive s (payloadBytes (codeString s).length) with
        outLen := BitVec.ofNat 32 (hdrLen + payloadBytes (codeString s).length)
        bitCnt := BitVec.ofNat 64 (codeString s).length }) := by
  rw [← length_codeBits_input] at hfit
  have hloop := packBits_all (packHeader s).obuf hfit
  rw [map_snd_codeBits_input] at hloop
  rw [exec_pack_payload hbook hin, withArchive_eq, ← Packing.flush_after]
  rcases packPayload_cases (packHeader s) with ⟨i, t, hover, -⟩ | ⟨t, hall, hrun⟩
  · cases hover.symm.trans hloop
  · cases hall.symm.trans hloop
    rw [hrun]
    rfl

theorem exec_pack_overflow {room : Nat} (hsize : s.obufSize.toNat = hdrLen + room)
    (hmore : 8 * room < (codeBits s.cb s.input).length) :
    exec .pack s =
      .next (raise (Instr.opcode .pack) .obufOverflow (BitVec.ofNat 32 (codeBits s.cb s.input)[8 * room].1)
        (withArchive s room)) := by
  have hwhole : 8 * room ≤ (codeString s).length := hmore.le.trans_eq (length_codeBits_input s)
  have hloop := packBits_overflow (packHeader s).obuf hmore
  rw [map_snd_codeBits_input, ← hsize] at hloop
  rw [exec_pack_payload hbook hin, withArchive_eq, ← Packing.obuf_after_take _ hwhole]
  rcases packPayload_cases (packHeader s) with ⟨i, t, hover, hrun⟩ | ⟨t, hall, -⟩
  · cases hover.symm.trans hloop
    rw [hrun]
    rfl
  · cases hall.symm.trans hloop

end

end Sys2Proof.Machine

namespace Sys2Proof.Proofs

open Sys2Proof.Machine Sys2Proof.Claims

/-- Settles O25: OBUF is the archive written from index 0, and its bytes are those of the archive's lists. -/
theorem packWritesTheArchive : Obligations.PackWritesTheArchive := by
  unfold Obligations.PackWritesTheArchive
  intro s hbook hin hfit
  have hsize := s.obufSize.isLt
  refine ⟨_, exec_pack_fits hbook hin hfit, HoldsArchive.packedArchive (holdsArchive_of_obuf rfl rfl) ?_ ?_,
    headerWritten_trunc_iff s.status s.freq, rfl⟩
  · exact Nat.mod_eq_of_lt (hfit.trans_lt hsize)
  · exact Nat.mod_eq_of_lt (by omega)

/-- Settles O26: the loop stops at the first bit past the last byte of OBUF, and ERRINFO is the index of the input byte
whose code has that bit. -/
theorem packOverflowStopsAtTheEnd : Obligations.PackOverflowStopsAtTheEnd := by
  unfold Obligations.PackOverflowStopsAtTheEnd
  intro s hbook hin hheader hover
  obtain ⟨room, hsize⟩ := Nat.exists_eq_add_of_le hheader
  have hmore : 8 * room < (codeString s).length := by omega
  have hbits := hmore.trans_eq (length_codeBits_input s).symm
  obtain ⟨i, hi, hidx, hbegin, hend⟩ := codeBits_index s.cb s.input (8 * room) hbits
  rw [length_codeBits] at hbegin hend
  rw [State.length_input] at hi
  have hexec := exec_pack_overflow hbook hin hsize hbits
  rw [hidx] at hexec
  have harchive : HoldsArchive s
      (raise (Instr.opcode .pack) .obufOverflow (BitVec.ofNat 32 i) (withArchive s room)) room :=
    holdsArchive_of_obuf rfl rfl
  rw [hsize, Nat.add_sub_cancel_left]
  refine ⟨_, i, hexec, hi, Nat.mod_eq_of_lt (hi.trans s.inLen.isLt), hbegin, hend, harchive.length,
    harchive.frequency, fun p hp => ?_, harchive.rest, headerWritten_trunc_iff s.status s.freq, rfl⟩
  have hlt : p < (codeString s).length := hp.trans hmore
  rw [harchive.bit (by omega), List.getD_eq_getElem _ _ hlt, List.getElem?_eq_getElem hlt]

/-- Settles O24: PACK's two checks, in their order. -/
theorem packChecksFirst : Obligations.PackChecksFirst := by
  unfold Obligations.PackChecksFirst
  exact fun s => ⟨exec_pack_noBook, exec_pack_outOfRange⟩

end Sys2Proof.Proofs

/-! # The header PARSE reads, and the symbols UNPACK emits (R246 to R262)

`leaves` lists what the payload's bits reach.  The scan emits that list up to EXP_LEN (`foldl_scan_emits`), so OBUF,
BITCNT and the number of symbols are read off the list.  A code is a path to a leaf, so the list of a payload that
begins with the codes of x begins with x (`prefix_map_fst_leaves`). -/

namespace Sys2Proof.Machine

open Sys2Proof.Claims

/-! ## The header's fields (R131, R132) -/

theorem toNat_append_eq {m n : Nat} (a : BitVec m) (b : BitVec n) : (a ++ b).toNat = 2 ^ n * a.toNat + b.toNat := by
  rw [BitVec.toNat_append, Nat.shiftLeft_eq, Nat.mul_comm, Nat.two_pow_add_eq_or_of_lt b.isLt]

theorem State.toNat_headerLength (s : State) :
    s.headerLength.toNat = (s.ibufAt 0).toNat + 2 ^ 8 * (s.ibufAt 1).toNat + 2 ^ 16 * (s.ibufAt 2).toNat
      + 2 ^ 24 * (s.ibufAt 3).toNat := by
  rw [State.headerLength, toNat_append_eq, toNat_append_eq, toNat_append_eq]
  omega

theorem State.toNat_atSymbol_headerFreq (s : State) (k : Byte) :
    (atSymbol s.headerFreq k).toNat = (s.ibufAt (4 + k.toNat)).toNat := by
  rw [atSymbol, State.headerFreq, getElem_tabulate, BitVec.toNat_setWidth]
  exact Nat.mod_eq_of_lt (by omega)

/-! ## The commands' checks (R246, R253) -/

section
variable {s : State}

theorem exec_parse_of_run {r : Run} (h : parseRun s = r) : exec .parse s = .next r.conclude := by
  rw [exec_eq, commandRun, h]

theorem exec_unpack_of_run {r : Run} (h : unpackRun s = r) : exec .unpack s = .next r.conclude := by
  rw [exec_eq, commandRun, h]

theorem parseRun_outOfRange (hin : s.ibufSize < s.inLen) :
    parseRun s = .raised (Instr.opcode .parse) .inRange 0 s := by
  simpa [hin] using parseRun_cases s

section
variable (hin : ¬ s.ibufSize < s.inLen)
include hin

theorem parseRun_short (hlen : s.inLen.toNat < hdrLen) :
    parseRun s = .raised (Instr.opcode .parse) .malformedShort 0 s := by
  simpa [hin, hlen, Nat.not_le.2 hlen] using parseRun_cases s

theorem parseRun_header (hlen : hdrLen ≤ s.inLen.toNat) :
    parseRun s =
      .finished { s with expLen := s.headerLength, freq := s.headerFreq, status := s.status.freqChanged } := by
  simpa [hin, hlen, Nat.not_lt.2 hlen] using parseRun_cases s

end

theorem unpackRun_noTree (htree : s.status.treeValid = false) :
    unpackRun s = .raised (Instr.opcode .unpack) .sequence 0 s := by
  simpa [htree] using unpackRun_cases s

section
variable (htree : s.status.treeValid = true)
include htree

theorem unpackRun_outOfRange (hin : s.ibufSize < s.inLen) :
    unpackRun s = .raised (Instr.opcode .unpack) .inRange 0 s := by
  simpa [htree, hin] using unpackRun_cases s

variable (hin : ¬ s.ibufSize < s.inLen)
include hin

theorem unpackRun_short (hlen : s.inLen.toNat < hdrLen) :
    unpackRun s = .raised (Instr.opcode .unpack) .malformedShort 0 s := by
  simpa [htree, hin, hlen, Nat.not_le.2 hlen] using unpackRun_cases s

variable (hlen : hdrLen ≤ s.inLen.toNat)
include hlen

theorem unpackRun_overflow (hfit : s.obufSize < s.expLen) :
    unpackRun s = .raised (Instr.opcode .unpack) .obufOverflow 0 s := by
  simpa [htree, hin, hlen, Nat.not_lt.2 hlen, hfit] using unpackRun_cases s

theorem unpackRun_payload (hfit : ¬ s.obufSize < s.expLen) : unpackRun s = unpackPayload s := by
  simpa [htree, hin, hlen, Nat.not_lt.2 hlen, hfit] using unpackRun_cases s

end
end

/-! ## The leaves a bit string reaches (R253 to R256) -/

section
variable {v : Vector Node 511} {n : NodeIndex} {b : Bool}

theorem leaves_cons_leaf (h : ((nodeAt v n).child b).toNat < 256) (pos : Nat) (bits : List Bool) :
    leaves v n pos (b :: bits) =
      (((nodeAt v n).child b).setWidth 8, pos + 1) :: leaves v root (pos + 1) bits := by
  simp only [leaves, if_pos h, root]

theorem leaves_cons_inner (h : ¬ ((nodeAt v n).child b).toNat < 256) (pos : Nat) (bits : List Bool) :
    leaves v n pos (b :: bits) = leaves v ((nodeAt v n).child b) (pos + 1) bits := by
  simp only [leaves, if_neg h]

/-- No leaf is reached after the last bit. -/
theorem snd_le_of_mem_leaves {pos : Nat} {bits : List Bool} {c : Byte × Nat} (hc : c ∈ leaves v n pos bits) :
    c.2 ≤ pos + bits.length := by
  induction bits generalizing n pos with
  | nil => cases hc
  | cons b bits ih =>
    rw [List.length_cons, Nat.add_comm bits.length, ← Nat.add_assoc]
    by_cases h : ((nodeAt v n).child b).toNat < 256
    · rw [leaves_cons_leaf h, List.mem_cons] at hc
      rcases hc with rfl | hc
      · exact Nat.le_add_right _ _
      · exact ih hc
    · rw [leaves_cons_inner h] at hc
      exact ih hc

/-- A path that passes internal nodes down to a leaf reaches that leaf first, and the walk is back at the root. -/
theorem leaves_append {p : List Bool}
    (hpass : ∀ q, q <+: p → q ≠ p → 256 ≤ (descend v ((nodeAt v n).child b) q).toNat)
    (hleaf : (descend v ((nodeAt v n).child b) p).toNat < 256) (pos : Nat) (bits : List Bool) :
    leaves v n pos (b :: p ++ bits) =
      ((descend v ((nodeAt v n).child b) p).setWidth 8, pos + (b :: p).length) ::
        leaves v root (pos + (b :: p).length) bits := by
  induction p generalizing n b pos with
  | nil => exact leaves_cons_leaf hleaf pos bits
  | cons d p ih =>
    have hinner : 256 ≤ ((nodeAt v n).child b).toNat := hpass [] (List.nil_prefix) (by simp)
    have hrest := ih (n := (nodeAt v n).child b) (b := d)
      (fun q hq hne => hpass (d :: q) (List.cons_prefix_cons.2 ⟨rfl, hq⟩) (by simpa using hne)) hleaf (pos + 1)
    rw [List.cons_append, leaves_cons_inner (Nat.not_lt.2 hinner), hrest, List.length_cons (a := b),
      Nat.add_right_comm]
    rfl

end

/-- The code of a symbol reaches the symbol's leaf (R262). -/
theorem leaves_path_append {v : Vector Node 511} {k : Byte} {p : List Bool} (h : OnPath v (k.setWidth 9) p)
    (pos : Nat) (bits : List Bool) :
    leaves v root pos (p ++ bits) = (k, pos + p.length) :: leaves v root (pos + p.length) bits := by
  obtain ⟨b, p, rfl⟩ := List.exists_cons_of_length_pos (h.length_pos (leafIndex_lt k))
  have hleads : descend v ((nodeAt v root).child b) p = k.setWidth 9 := h.leads
  have hsymbol : (k.setWidth 9).setWidth 8 = k := BitVec.setWidth_setWidth_of_le k (by decide)
  rw [leaves_append (fun q hq hne => h.passes (b :: q) (List.cons_prefix_cons.2 ⟨rfl, hq⟩) (by simpa using hne))
    (hleads ▸ leafIndex_lt k), hleads, hsymbol]

/-- The leaves of a bit string that begins with the codes of x begin with x (R262). -/
theorem prefix_map_fst_leaves {v : Vector Node 511} {code : Byte → List Bool}
    (hcode : ∀ k, OnPath v (k.setWidth 9) (code k)) {x : List Byte} {bits : List Bool}
    (hbits : x.flatMap code <+: bits) (pos : Nat) : x <+: (leaves v root pos bits).map Prod.fst := by
  obtain ⟨rest, rfl⟩ := hbits
  induction x generalizing pos with
  | nil => exact List.nil_prefix
  | cons k x ih =>
    rw [List.flatMap_cons, List.append_assoc, leaves_path_append (hcode k), List.map_cons]
    exact List.cons_prefix_cons.2 ⟨rfl, ih _⟩

/-! ## The scan (R253 to R257) -/

/-- Between the two scanning states the symbols of the leaves `l` are written to OBUF, in order, after those before. -/
structure Unpacking.Emits (t : Unpacking) (l : List (Byte × Nat)) (t' : Unpacking) : Prop where
  emitted : t'.emitted = t.emitted + l.length
  obuf : t'.obuf = t.obuf.writeFrom t.emitted (l.map Prod.fst)
  last : t'.last = (l.map Prod.snd).getLastD t.last

section
variable {v : Vector Node 511} {t : Unpacking} {b : Bool}

theorem Unpacking.scan_inner (h : ¬ ((nodeAt v t.node).child b).toNat < 256) (e : Nat) :
    t.scan v e b = ⟨(nodeAt v t.node).child b, t.emitted, t.pos + 1, t.last, t.obuf⟩ :=
  if_neg h

theorem Unpacking.scan_emit (h : ((nodeAt v t.node).child b).toNat < 256) {e : Nat} (he : t.emitted < e) :
    t.scan v e b = ⟨root, t.emitted + 1, t.pos + 1, t.pos + 1,
      t.obuf.write t.emitted (((nodeAt v t.node).child b).setWidth 8)⟩ :=
  (if_pos h).trans (if_pos he)

theorem Unpacking.scan_full (h : ((nodeAt v t.node).child b).toNat < 256) {e : Nat} (he : ¬ t.emitted < e) :
    t.scan v e b = ⟨root, t.emitted, t.pos + 1, t.last, t.obuf⟩ :=
  (if_pos h).trans (if_neg he)

end

/-- The scan emits the leaves its bits reach, up to EXP_LEN symbols in all. -/
theorem Unpacking.foldl_scan_emits (v : Vector Node 511) (e : Nat) (bits : List Bool) (t : Unpacking) :
    t.Emits ((leaves v t.node t.pos bits).take (e - t.emitted)) (bits.foldl (Unpacking.scan v e) t) := by
  induction bits generalizing t with
  | nil => exact ⟨by simp [leaves], by simp [leaves, Memory.writeFrom], by simp [leaves]⟩
  | cons b bits ih =>
    rw [List.foldl_cons]
    by_cases h : ((nodeAt v t.node).child b).toNat < 256
    · rw [leaves_cons_leaf h]
      by_cases he : t.emitted < e
      · obtain ⟨hemitted, hobuf, hlast⟩ := ih (t.scan v e b)
        simp only [Unpacking.scan_emit h he] at hemitted hobuf hlast ⊢
        rw [show e - t.emitted = e - (t.emitted + 1) + 1 by omega, List.take_succ_cons]
        exact ⟨by rw [hemitted, List.length_cons]; omega, hobuf, by rw [hlast, List.map_cons, List.getLastD_cons]⟩
      · have hrest := ih (t.scan v e b)
        simp only [Unpacking.scan_full h he] at hrest ⊢
        rw [show e - t.emitted = 0 by omega, List.take_zero] at hrest ⊢
        exact ⟨hrest.emitted, hrest.obuf, hrest.last⟩
    · have hrest := ih (t.scan v e b)
      rw [leaves_cons_inner h]
      simp only [Unpacking.scan_inner h] at hrest ⊢
      exact ⟨hrest.emitted, hrest.obuf, hrest.last⟩

/-! ## UNPACK's payload (R256 to R258) -/

theorem State.length_payload (s : State) : s.payload.length = 8 * (s.inLen.toNat - hdrLen) := by
  simp [State.payload, State.ibufBytes, Byte.bits, List.length_flatMap, Function.comp_def, Nat.mul_comm]

theorem State.length_payload_lt (s : State) : s.payload.length < 2 ^ 64 := by
  have hlen := s.inLen.isLt
  rw [s.length_payload]
  omega

/-- A bit count of the payload fits BITCNT (R51). -/
theorem snd_lt_of_mem_payloadLeaves {s : State} {c : Byte × Nat} (hc : c ∈ payloadLeaves s) : c.2 < 2 ^ 64 :=
  (snd_le_of_mem_leaves hc).trans_lt (by rw [Nat.zero_add]; exact s.length_payload_lt)

/-- The leaves whose symbols UNPACK emits (R256). -/
def emittedLeaves (s : State) : List (Byte × Nat) := (payloadLeaves s).take s.expLen.toNat

theorem length_emittedLeaves (s : State) : (emittedLeaves s).length = min s.expLen.toNat (payloadLeaves s).length :=
  List.length_take

theorem getElem?_emittedLeaves (s : State) {j : Nat} (hj : j < s.expLen.toNat) :
    (emittedLeaves s)[j]? = (payloadLeaves s)[j]? :=
  List.getElem?_take_of_lt hj

theorem holdsSymbols_emittedLeaves {s t : State} {n : Nat} (hn : min s.expLen.toNat (payloadLeaves s).length = n)
    (hobuf : t.obuf = s.obuf.writeFrom 0 ((emittedLeaves s).map Prod.fst)) (hepoch : t.obufEpoch = s.obufEpoch) :
    holdsSymbols s t n (payloadLeaves s) := by
  rw [← length_emittedLeaves] at hn
  subst hn
  refine ⟨fun j hj => ?_, fun a ha => obufAt_writeFrom_zero_above hobuf hepoch (by simpa using ha)⟩
  have hwritten : ((emittedLeaves s).map Prod.fst)[j]? = some (emittedLeaves s)[j].1 := by simp [hj]
  have hlt : j < s.expLen.toNat := by rw [length_emittedLeaves] at hj; omega
  rw [obufAt_writeFrom_zero hobuf hwritten, ← getElem?_emittedLeaves s hlt, ← List.getElem?_map, hwritten]

/-- The bits read when the last emitted symbol's leaf was reached, 0 when none was (R258). -/
def bitsRead (s : State) : Nat := ((emittedLeaves s).map Prod.snd).getLastD 0

section
variable {s : State}

theorem bitsRead_eq_zero (h : s.expLen = 0) : bitsRead s = 0 := by
  simp [bitsRead, emittedLeaves, h]

theorem getElem?_payloadLeaves_bitsRead (hne : s.expLen ≠ 0) (h : s.expLen.toNat ≤ (payloadLeaves s).length) :
    ((payloadLeaves s)[s.expLen.toNat - 1]?).map Prod.snd = some (bitsRead s) := by
  have hpos : s.expLen.toNat ≠ 0 := fun he => hne (BitVec.eq_of_toNat_eq he)
  have hlast : s.expLen.toNat - 1 < (payloadLeaves s).length := by omega
  rw [bitsRead, emittedLeaves, List.getLastD_eq_getLast?, List.getLast?_map, List.getLast?_take, if_neg hpos,
    List.getElem?_eq_getElem hlast, Option.some_or, Option.map_some, Option.getD_some]

theorem bitsRead_lt (h : s.expLen.toNat ≤ (payloadLeaves s).length) : bitsRead s < 2 ^ 64 := by
  by_cases he : s.expLen = 0
  · rw [bitsRead_eq_zero he]
    decide
  · obtain ⟨c, hc, hlast⟩ := Option.map_eq_some_iff.1 (getElem?_payloadLeaves_bitsRead he h)
    exact hlast ▸ snd_lt_of_mem_payloadLeaves (List.mem_of_getElem? hc)

theorem unpackBits_emits (s : State) :
    Unpacking.Emits ⟨root, 0, 0, 0, s.obuf⟩ (emittedLeaves s) (unpackBits s.node s.expLen.toNat s.payload s.obuf) :=
  Unpacking.foldl_scan_emits s.node s.expLen.toNat s.payload ⟨root, 0, 0, 0, s.obuf⟩

theorem emitted_unpackBits (s : State) :
    (unpackBits s.node s.expLen.toNat s.payload s.obuf).emitted = min s.expLen.toNat (payloadLeaves s).length := by
  rw [(unpackBits_emits s).emitted, Nat.zero_add, length_emittedLeaves]

theorem unpackPayload_done (h : s.expLen.toNat ≤ (payloadLeaves s).length) :
    unpackPayload s =
      .finished
        { s with
          obuf := s.obuf.writeFrom 0 ((emittedLeaves s).map Prod.fst)
          outLen := s.expLen
          bitCnt := BitVec.ofNat 64 (bitsRead s) } := by
  have hemits := unpackBits_emits s
  rcases unpackPayload_cases s with ⟨hfew, -⟩ | ⟨-, hrun⟩
  · rw [emitted_unpackBits] at hfew
    omega
  · rw [hrun, hemits.obuf, hemits.last, bitsRead]

theorem unpackPayload_truncated (h : (payloadLeaves s).length < s.expLen.toNat) :
    unpackPayload s =
      .raised (Instr.opcode .unpack) .malformedTrunc (BitVec.ofNat 32 (payloadLeaves s).length)
        { s with obuf := s.obuf.writeFrom 0 ((emittedLeaves s).map Prod.fst) } := by
  rcases unpackPayload_cases s with ⟨-, hrun⟩ | ⟨henough, -⟩
  · rw [hrun, emitted_unpackBits, (unpackBits_emits s).obuf, Nat.min_eq_right h.le]
  · rw [emitted_unpackBits] at henough
    omega

end

end Sys2Proof.Machine

namespace Sys2Proof.Proofs

open Sys2Proof.Machine Sys2Proof.Claims

/-- Settles O27: the length field is four bytes appended, and each frequency is one byte widened. -/
theorem parseReadsTheHeader : Obligations.ParseReadsTheHeader := by
  unfold Obligations.ParseReadsTheHeader
  exact fun s => ⟨fun hin => exec_parse_of_run (parseRun_outOfRange hin),
    fun hin hlen => exec_parse_of_run (parseRun_short hin hlen),
    fun hin hlen => ⟨_, exec_parse_of_run (parseRun_header hin hlen), s.toNat_headerLength,
      s.toNat_atSymbol_headerFreq, rfl⟩⟩

/-- Settles O28: UNPACK's four checks, in their order. -/
theorem unpackChecksFirst : Obligations.UnpackChecksFirst := by
  unfold Obligations.UnpackChecksFirst
  exact fun s => ⟨fun htree => exec_unpack_of_run (unpackRun_noTree htree),
    fun htree hin => exec_unpack_of_run (unpackRun_outOfRange htree hin),
    fun htree hin hlen => exec_unpack_of_run (unpackRun_short htree hin hlen),
    fun htree hin hlen hfit => exec_unpack_of_run (unpackRun_overflow htree hin hlen hfit)⟩

/-- Settles O29: the scan emits the payload's leaves up to EXP_LEN, so it raises exactly where the list is too short. -/
theorem unpackEmitsTheLeavesReached : Obligations.UnpackEmitsTheLeavesReached := by
  unfold Obligations.UnpackEmitsTheLeavesReached
  intro s htree hin hlen hfit
  have hrun := unpackRun_payload htree hin hlen hfit
  refine ⟨fun henough => ?done, fun hfew => ?truncated⟩
  case done =>
    refine ⟨_, exec_unpack_of_run (hrun.trans (unpackPayload_done henough)),
      holdsSymbols_emittedLeaves (Nat.min_eq_left henough) rfl rfl, fun hzero => ?none, fun hne => ?last, rfl⟩
    case none => exact congrArg (BitVec.ofNat 64) (bitsRead_eq_zero hzero)
    case last =>
      rw [Run.conclude_finished, complete_bitCnt, BitVec.toNat_ofNat, Nat.mod_eq_of_lt (bitsRead_lt henough)]
      exact getElem?_payloadLeaves_bitsRead hne henough
  case truncated =>
    exact ⟨_, exec_unpack_of_run (hrun.trans (unpackPayload_truncated hfew)),
      holdsSymbols_emittedLeaves (Nat.min_eq_right hfew.le) rfl rfl, Nat.mod_eq_of_lt (hfew.trans s.expLen.isLt), rfl⟩

/-- Settles O30: each code leads from the root to its symbol's leaf, so the payload's leaves begin with x. -/
theorem unpackInvertsTheCodeBook : Obligations.UnpackInvertsTheCodeBook := by
  unfold Obligations.UnpackInvertsTheCodeBook
  intro s x hinv htree hin hlen hfit hx hbits
  have hprefix : x <+: (payloadLeaves s).map Prod.fst :=
    prefix_map_fst_leaves (onPath_deriveBook (hinv.treeCurrent htree) s.cb) hbits 0
  have henough : s.expLen.toNat ≤ (payloadLeaves s).length := by simpa [hx] using hprefix.length_le
  obtain ⟨t, hexec, ⟨hsymbols, -⟩, -, -, hstate⟩ :=
    (unpackEmitsTheLeavesReached s htree hin hlen hfit).1 henough
  refine ⟨t, hexec, by rw [hstate], by rw [hstate], by rw [hstate], fun j hj => ?_⟩
  have hsymbol : ((payloadLeaves s).map Prod.fst)[j]? = some (t.obufAt j) :=
    List.getElem?_map.trans (hsymbols j (hx ▸ hj))
  exact Option.some.inj (hsymbol.symm.trans (List.prefix_iff_getElem?.1 hprefix j hj))

end Sys2Proof.Proofs

/-! # NOP, and COMPRESS and DECOMPRESS as their steps (R276 to R281)

COUNT's error is COMPRESS's, and PARSE's errors are DECOMPRESS's; otherwise the steps before the last have no error, and
the command is PACK or UNPACK on the state they leave.  The same steps issued one by one leave that state too, but for
CMD, which neither PACK nor UNPACK reads. -/

namespace Sys2Proof.Machine

open Sys2Proof.Claims

/-! ## COMPRESS and DECOMPRESS step by step (R277, R278, R280) -/

section
variable {s : State}

theorem countRun_outOfRange (hin : s.ibufSize < s.inLen) :
    countRun s = .raised (Instr.opcode .count) .inRange 0 s := by
  simpa [hin] using countRun_cases s

theorem countRun_inRange (hin : ¬ s.ibufSize < s.inLen) :
    countRun s = .finished { s with freq := countSymbols s.input, status := s.status.freqChanged } := by
  simpa [hin] using countRun_cases s

theorem compressRun_outOfRange (hin : s.ibufSize < s.inLen) :
    compressRun s = .raised (Instr.opcode .count) .inRange 0 s := by
  rw [compressRun, countRun_outOfRange hin]
  rfl

theorem compressRun_inRange (hin : ¬ s.ibufSize < s.inLen) : compressRun s = packRun (beforePack s) := by
  rw [compressRun, countRun_inRange hin]
  rfl

theorem decompressRun_outOfRange (hin : s.ibufSize < s.inLen) :
    decompressRun s = .raised (Instr.opcode .parse) .inRange 0 s := by
  rw [decompressRun, parseRun_outOfRange hin]
  rfl

theorem decompressRun_short (hin : ¬ s.ibufSize < s.inLen) (hlen : s.inLen.toNat < hdrLen) :
    decompressRun s = .raised (Instr.opcode .parse) .malformedShort 0 s := by
  rw [decompressRun, parseRun_short hin hlen]
  rfl

theorem decompressRun_header (hin : ¬ s.ibufSize < s.inLen) (hlen : hdrLen ≤ s.inLen.toNat) :
    decompressRun s = unpackRun (beforeUnpack s) := by
  rw [decompressRun, parseRun_header hin hlen]
  rfl

theorem exec_compress_of_run {r : Run} (h : compressRun s = r) : exec .compress s = .next r.conclude := by
  rw [exec_eq, commandRun, h]

theorem exec_decompress_of_run {r : Run} (h : decompressRun s = r) : exec .decompress s = .next r.conclude := by
  rw [exec_eq, commandRun, h]

/-- COMPRESS without error was in range (R277). -/
theorem inRange_of_compressRun (h : (compressRun s).conclude.status.err = false) : ¬ s.ibufSize < s.inLen := by
  intro hin
  simp [compressRun_outOfRange hin] at h

/-- DECOMPRESS without error found a whole header, and room for the length it declares (R277). -/
theorem header_of_decompressRun (h : (decompressRun s).conclude.status.err = false) :
    ¬ s.ibufSize < s.inLen ∧ hdrLen ≤ s.inLen.toNat ∧ ¬ s.obufSize < s.headerLength := by
  have hin : ¬ s.ibufSize < s.inLen := fun hin => by simp [decompressRun_outOfRange hin] at h
  have hlen : hdrLen ≤ s.inLen.toNat := Nat.not_lt.1 fun hlen => by simp [decompressRun_short hin hlen] at h
  refine ⟨hin, hlen, fun hfit => ?_⟩
  rw [decompressRun_header hin hlen, unpackRun_overflow (s := beforeUnpack s) rfl hin hlen hfit] at h
  cases h

section
variable (hbook : s.status.cbValid = true) (hin : ¬ s.ibufSize < s.inLen)
include hbook hin

theorem packRun_payload : packRun s = packPayload (packHeader s) := by
  simpa [hbook, hin] using packRun_cases s

/-- PACK past its checks keeps the error code or overwrites it, but not with SEQUENCE (R279). -/
theorem packRun_not_sequence (h : (packRun s).conclude.errCode.code = .sequence) : s.errCode.code = .sequence := by
  rw [packRun_payload hbook hin] at h
  rcases packPayload_cases (packHeader s) with ⟨i, t, -, hpay⟩ | ⟨t, -, hpay⟩
  · rw [hpay] at h
    cases h
  · rwa [hpay] at h

end
end

/-! ## Words issued one after another (R125, R126) -/

/-- Each word written to CMD, with the engine's turn after it. -/
def wordTurns (ws : List Word) : List Turn := ws.flatMap fun w => wr 0x008 w ++ [.engine]

/-- The state in which the word w has just been written to CMD and the engine's turn after it is taken. -/
def issued (s : State) (w : Word) : State := { accept w s with turns := s.turns.drop 2, hostData := .nothing }

/-- The state after the word w is written to CMD and the engine has run it. -/
def afterWord (s : State) (w : Word) : State := (acceptedRun (issued s w)).conclude

theorem issued_input (s : State) (w : Word) : (issued s w).input = s.input := rfl
theorem issued_headerLength (s : State) (w : Word) : (issued s w).headerLength = s.headerLength := rfl
theorem issued_headerFreq (s : State) (w : Word) : (issued s w).headerFreq = s.headerFreq := rfl

theorem State.withProgram_input (s : State) (p : List Turn) : (s.withProgram p).input = s.input := rfl
theorem State.withProgram_headerLength (s : State) (p : List Turn) :
    (s.withProgram p).headerLength = s.headerLength := rfl
theorem State.withProgram_headerFreq (s : State) (p : List Turn) :
    (s.withProgram p).headerFreq = s.headerFreq := rfl

theorem afterWord_busy (s : State) (w : Word) : (afterWord s w).status.busy = false := Run.conclude_busy _

theorem afterWord_turns (s : State) (w : Word) : (afterWord s w).turns = s.turns.drop 2 :=
  (Run.conclude_turns _).trans (acceptedRun_sameHost _).turns

theorem run_two_of_step {s u t : State} (h₁ : step s = .next u) (h₂ : step u = .next t) (k : Nat) :
    core.run (k + 2) s = core.run k t :=
  (run_succ_of_step (M := core) h₁ (k + 1)).trans (run_succ_of_step (M := core) h₂ k)

/-- A word issued to an idle block is run to its end in two steps: the host's and the engine's. -/
theorem run_word {s : State} {w : Word} {rest : List Turn} (hidle : s.status.busy = false)
    (h : s.turns = .host (.regWrite 0x008 w) :: .engine :: rest) (k : Nat) :
    core.run (k + 2) s = core.run k (afterWord s w) := by
  have hwrite : step s = .next { issued s w with turns := .engine :: rest } := by
    rw [step_regWrite (p := .cmd) h rfl, State.writePlace,
      State.locked_idle (s := { s with turns := .engine :: rest }) hidle]
    rfl
  have hrest : rest = s.turns.drop 2 := by rw [h]; rfl
  have hengine : step { issued s w with turns := .engine :: rest } = .next (afterWord s w) := by
    rw [hrest]
    exact step_busy_engineMoves rfl (.inr ⟨_, rfl⟩)
  exact run_two_of_step hwrite hengine k

/-- Words issued to an idle block are run one after another. -/
theorem run_wordTurns {s : State} {ws : List Word} (hidle : s.status.busy = false) (h : s.turns = wordTurns ws) :
    core.run (2 * ws.length) s = .next (ws.foldl afterWord s) := by
  induction ws generalizing s with
  | nil => rfl
  | cons w ws ih =>
    rw [List.length_cons, Nat.mul_succ, run_word hidle h]
    exact ih (afterWord_busy s w) (by rw [afterWord_turns, h]; rfl)

theorem afterWord_legal {w : Word} {i : Instr} (hi : decode w = .legal i) (s : State) :
    afterWord s w = (commandRun i (issued s w)).conclude := by
  have hrun : acceptedRun (issued s w) = commandRun i (issued s w) := by
    rw [acceptedRun, show (issued s w).cmd = w from rfl, hi]
  rw [afterWord, hrun]

/-- One word issued to an idle block. -/
theorem eq_afterWord_of_run {s t : State} {w : Word} (hidle : s.status.busy = false)
    (h : core.run 2 (s.withProgram (wordTurns [w])) = .next t) : t = afterWord (s.withProgram (wordTurns [w])) w :=
  Host.Outcome.next.inj <|
    h.symm.trans (run_wordTurns (s := s.withProgram (wordTurns [w])) (ws := [w]) hidle rfl)

theorem afterWord_count {s : State} (hin : ¬ s.ibufSize < s.inLen) :
    afterWord s 1 =
      complete { issued s 1 with freq := countSymbols s.input, status := (issued s 1).status.freqChanged } := by
  rw [afterWord_legal (i := .count) (by decide), commandRun, countRun_inRange (s := issued s 1) hin]
  rfl

theorem afterWord_build (s : State) :
    afterWord s 2 =
      complete { issued s 2 with node := buildTree s.freq s.node, status := (issued s 2).status.treeBuilt } :=
  afterWord_legal (i := .build) (by decide) s

theorem afterWord_derive {s : State} (htree : s.status.treeValid = true) :
    afterWord s 3 =
      complete { issued s 3 with cb := deriveBook s.node s.cb, status := (issued s 3).status.bookDerived } := by
  rw [afterWord_legal (i := .derive) (by decide), commandRun, deriveRun,
    if_pos (show (issued s 3).status.treeValid = true from htree)]
  rfl

theorem afterWord_parse {s : State} (hin : ¬ s.ibufSize < s.inLen) (hlen : hdrLen ≤ s.inLen.toNat) :
    afterWord s 5 =
      complete { issued s 5 with
        expLen := s.headerLength, freq := s.headerFreq, status := (issued s 5).status.freqChanged } := by
  rw [afterWord_legal (i := .parse) (by decide), commandRun, parseRun_header (s := issued s 5) hin hlen]
  rfl

/-! ## PACK and UNPACK do not read CMD -/

/-- The run with another word in CMD. -/
def Run.withCmd (w : Word) : Run → Run
  | .finished s => .finished { s with cmd := w }
  | .raised op e info s => .raised op e info { s with cmd := w }

theorem Run.conclude_withCmd (w : Word) (r : Run) : (r.withCmd w).conclude = { r.conclude with cmd := w } := by
  cases r <;> rfl

theorem packPayload_withCmd (s : State) (w : Word) :
    packPayload { s with cmd := w } = (packPayload s).withCmd w := by
  have hinput : { s with cmd := w }.input = s.input := rfl
  simp only [packPayload, hinput]
  cases packBits s.obufSize.toNat (codeBits s.cb s.input) ⟨0, 0, s.obuf⟩ <;> rfl

theorem packRun_withCmd (s : State) (w : Word) : packRun { s with cmd := w } = (packRun s).withCmd w := by
  simp only [packRun]
  split
  · rfl
  · split
    · rfl
    · exact packPayload_withCmd (packHeader s) w

theorem unpackPayload_withCmd (s : State) (w : Word) :
    unpackPayload { s with cmd := w } = (unpackPayload s).withCmd w := by
  have hpayload : { s with cmd := w }.payload = s.payload := rfl
  simp only [unpackPayload, hpayload]
  generalize unpackBits s.node s.expLen.toNat s.payload s.obuf = scanned
  split <;> rfl

theorem unpackRun_withCmd (s : State) (w : Word) : unpackRun { s with cmd := w } = (unpackRun s).withCmd w := by
  simp only [unpackRun]
  split
  · rfl
  · split
    · rfl
    · split
      · rfl
      · split
        · rfl
        · exact unpackPayload_withCmd s w

/-! ## The whole command and its steps issued one by one (R279, R281) -/

theorem afterWord_compress {s : State} (hin : ¬ s.ibufSize < s.inLen) :
    afterWord s 8 = (packRun (beforePack (issued s 8))).conclude := by
  rw [afterWord_legal (i := .compress) (by decide), commandRun, compressRun_inRange (s := issued s 8) hin]

theorem afterWord_decompress {s : State} (hin : ¬ s.ibufSize < s.inLen) (hlen : hdrLen ≤ s.inLen.toNat) :
    afterWord s 9 = (unpackRun (beforeUnpack (issued s 9))).conclude := by
  rw [afterWord_legal (i := .decompress) (by decide), commandRun, decompressRun_header (s := issued s 9) hin hlen]

/-- COUNT, BUILD and DERIVE leave PACK the state it meets inside COMPRESS, but for CMD. -/
theorem foldl_afterWord_compress {s : State} (hin : ¬ s.ibufSize < s.inLen) :
    [1, 2, 3, 4].foldl afterWord (s.withProgram (wordTurns [1, 2, 3, 4])) =
      { afterWord (s.withProgram (wordTurns [8])) 8 with cmd := 4 } := by
  rw [afterWord_compress (s := s.withProgram (wordTurns [8])) hin, ← Run.conclude_withCmd, ← packRun_withCmd]
  simp only [List.foldl_cons, List.foldl_nil]
  rw [afterWord_count (s := s.withProgram (wordTurns [1, 2, 3, 4])) hin, afterWord_build, afterWord_derive rfl,
    afterWord_legal (i := .pack) (by decide)]
  refine congrArg (fun u => (packRun u).conclude) ?_
  simp only [beforePack, issued_input, State.withProgram_input]
  simp [issued, State.withProgram, wordTurns, wr, clearsResult_iff, Status.accepted, Status.completed,
    Status.freqChanged, Status.treeBuilt, Status.bookDerived]

/-- PARSE and BUILD leave UNPACK the state it meets inside DECOMPRESS, but for CMD. -/
theorem foldl_afterWord_decompress {s : State} (hin : ¬ s.ibufSize < s.inLen) (hlen : hdrLen ≤ s.inLen.toNat) :
    [5, 2, 6].foldl afterWord (s.withProgram (wordTurns [5, 2, 6])) =
      { afterWord (s.withProgram (wordTurns [9])) 9 with cmd := 6 } := by
  rw [afterWord_decompress (s := s.withProgram (wordTurns [9])) hin hlen, ← Run.conclude_withCmd,
    ← unpackRun_withCmd]
  simp only [List.foldl_cons, List.foldl_nil]
  rw [afterWord_parse (s := s.withProgram (wordTurns [5, 2, 6])) hin hlen, afterWord_build,
    afterWord_legal (i := .unpack) (by decide)]
  refine congrArg (fun u => (unpackRun u).conclude) ?_
  simp only [beforeUnpack, issued_headerLength, issued_headerFreq, State.withProgram_headerLength,
    State.withProgram_headerFreq]
  simp [issued, State.withProgram, wordTurns, wr, clearsResult_iff, Status.accepted, Status.completed,
    Status.freqChanged, Status.treeBuilt]

end Sys2Proof.Machine

namespace Sys2Proof.Proofs

open Sys2Proof.Machine Sys2Proof.Claims

/-- Settles O10: NOP is completion alone. -/
theorem nopOnlyCompletes : Obligations.NopOnlyCompletes := by
  unfold Obligations.NopOnlyCompletes
  exact exec_eq .nop

/-- Settles O31: in range, the three steps before PACK have no error, and PACK's archive is that of O25. -/
theorem compressRunsItsSteps : Obligations.CompressRunsItsSteps := by
  unfold Obligations.CompressRunsItsSteps
  intro s
  have hpack : ¬ s.ibufSize < s.inLen → exec .compress s = exec .pack (beforePack s) := fun hin =>
    (exec_compress_of_run (compressRun_inRange hin)).trans (exec_eq .pack (beforePack s)).symm
  refine ⟨fun hin => exec_compress_of_run (compressRun_outOfRange hin), hpack, fun hin hfit => ?_⟩
  obtain ⟨t, hexec, harchive, -, hstate⟩ := packWritesTheArchive (beforePack s) rfl hin hfit
  exact ⟨t, (hpack hin).trans hexec, harchive, hstate⟩

/-- Settles O32: with a whole header, PARSE and BUILD have no error, and UNPACK's symbols are those of O29. -/
theorem decompressRunsItsSteps : Obligations.DecompressRunsItsSteps := by
  unfold Obligations.DecompressRunsItsSteps
  intro s
  have hunpack : ¬ s.ibufSize < s.inLen → 260 ≤ s.inLen.toNat →
      exec .decompress s = exec .unpack (beforeUnpack s) := fun hin hlen =>
    (exec_decompress_of_run (decompressRun_header hin hlen)).trans (exec_eq .unpack (beforeUnpack s)).symm
  refine ⟨fun hin => exec_decompress_of_run (decompressRun_outOfRange hin),
    fun hin hlen => exec_decompress_of_run (decompressRun_short hin hlen), hunpack, fun hin hlen hfit henough => ?_⟩
  obtain ⟨t, hexec, hsymbols, -, -, hstate⟩ :=
    (unpackEmitsTheLeavesReached (beforeUnpack s) rfl hin hlen hfit).1 henough
  exact ⟨t, (hunpack hin hlen).trans hexec, hsymbols, hstate⟩

/-- Settles O33: issued one by one, COUNT, BUILD and DERIVE leave PACK the state it meets inside COMPRESS, but for CMD;
and there CB_VALID is 1, so that PACK has no SEQUENCE to raise. -/
theorem compressEqualsItsFourCommands : Obligations.CompressEqualsItsFourCommands := by
  unfold Obligations.CompressEqualsItsFourCommands
  refine ⟨fun s t hexec hcode => ?sequence, fun s t hidle hrun herr => ?steps⟩
  case sequence =>
    obtain rfl := Host.Outcome.next.inj ((exec_eq .compress s).symm.trans hexec)
    by_cases hin : s.ibufSize < s.inLen
    · rw [commandRun, compressRun_outOfRange hin] at hcode
      cases hcode
    · rw [commandRun, compressRun_inRange hin] at hcode
      exact packRun_not_sequence (s := beforePack s) rfl hin hcode
  case steps =>
    obtain rfl := eq_afterWord_of_run hidle hrun
    rw [afterWord_legal (i := .compress) (by decide)] at herr
    have hin : ¬ s.ibufSize < s.inLen := inRange_of_compressRun (s := issued (s.withProgram (wordTurns [8])) 8) herr
    rw [← foldl_afterWord_compress hin]
    exact run_wordTurns (ws := [1, 2, 3, 4]) hidle rfl

/-- Settles O34: issued one by one, PARSE and BUILD leave UNPACK the state it meets inside DECOMPRESS, but for CMD. -/
theorem decompressEqualsItsThreeCommands : Obligations.DecompressEqualsItsThreeCommands := by
  unfold Obligations.DecompressEqualsItsThreeCommands
  intro s t hidle hrun herr
  obtain rfl := eq_afterWord_of_run hidle hrun
  rw [afterWord_legal (i := .decompress) (by decide)] at herr
  obtain ⟨hin, hlen, -⟩ := header_of_decompressRun (s := issued (s.withProgram (wordTurns [9])) 9) herr
  rw [← foldl_afterWord_decompress (s := s) hin hlen]
  exact run_wordTurns (ws := [5, 2, 6]) hidle rfl

end Sys2Proof.Proofs

/-! # COMPRESS, then DECOMPRESS of its archive (R282)

PACK without error wrote the whole archive, whatever the capacities (`packedArchive_of_packRun`).  Read back from IBUF,
the archive's header gives IN_LEN and, where no count is above 255, FREQ (`PackedArchive.headerLength_eq`,
`PackedArchive.headerFreq_eq`), hence a tree with the same codes (`onPath_beforePack`), and its payload begins with
those codes (`PackedArchive.codeString_prefix`). -/

namespace Sys2Proof.Machine

open Sys2Proof.Claims

/-! ## PACK without error wrote the archive (R226 to R231) -/

/-- The loop that does not overflow places every bit, and begins no byte that OBUF does not have; with no bit at all it
begins none, even where OBUF is shorter than the header. -/
theorem eq_after_of_packBits_all {size : Nat} {m : Memory} {bits : List (Nat × Bool)} {placed : List Bool}
    {t : Packing} (hplaced : hdrLen + payloadBytes placed.length ≤ max hdrLen size)
    (h : packBits size bits (Packing.after m placed) = .all t) :
    t = Packing.after m (placed ++ bits.map Prod.snd) ∧
      hdrLen + payloadBytes (placed ++ bits.map Prod.snd).length ≤ max hdrLen size := by
  induction bits generalizing placed with
  | nil =>
    obtain rfl := Packed.all.inj h
    simpa using hplaced
  | cons c bits ih =>
    obtain ⟨i, bit⟩ := c
    rw [packBits, Packing.pos_after, Packing.put_after] at h
    split at h
    · cases h
    · rename_i hroom
      have hnext : hdrLen + payloadBytes (placed ++ [bit]).length ≤ max hdrLen size := by
        rw [List.length_append, List.length_singleton, payloadBytes]
        rw [payloadBytes] at hplaced
        omega
      simpa using ih hnext h

/-- PACK without error, from a state with a valid book, wrote the archive, and OUT_LEN and BITCNT hold its sizes. -/
theorem packedArchive_of_packRun {s : State} (hbook : s.status.cbValid = true) (hin : ¬ s.ibufSize < s.inLen)
    (herr : (packRun s).conclude.status.err = false) : PackedArchive s (packRun s).conclude := by
  rw [packRun_payload hbook hin] at herr ⊢
  rcases packPayload_cases (packHeader s) with ⟨i, t, -, hpay⟩ | ⟨t, hloop, hpay⟩
  · simp [hpay] at herr
  · obtain ⟨rfl, hfit⟩ := eq_after_of_packBits_all (placed := []) (le_max_left hdrLen _) hloop
    have hbits : [] ++ (codeBits (packHeader s).cb (packHeader s).input).map Prod.snd = codeString s :=
      map_snd_codeBits_input s
    have hsize := s.obufSize.isLt
    rw [hbits, packHeader_obufSize, hdrLen, payloadBytes] at hfit
    rw [hpay, hbits, Packing.flush_after, Packing.pos_after]
    refine HoldsArchive.packedArchive (holdsArchive_of_obuf ?obuf rfl) ?outLen ?bitCnt
    case obuf => exact (congrArg State.obuf (withArchive_eq s _)).symm
    case outLen => exact Nat.mod_eq_of_lt (by rw [hdrLen, payloadBytes]; omega)
    case bitCnt => exact Nat.mod_eq_of_lt (by omega)

/-! ## The archive read back from IBUF -/

theorem getElem?_flatMap_bits (l : List Byte) (p : Nat) :
    (l.flatMap Byte.bits)[p]? = l[p / 8]?.map fun b => b.getLsbD (p % 8) := by
  induction l generalizing p with
  | nil => simp
  | cons b l ih =>
    have hlen : (Byte.bits b).length = 8 := by simp [Byte.bits]
    rw [List.flatMap_cons]
    by_cases hp : p < 8
    · rw [List.getElem?_append_left (by omega), Nat.div_eq_of_lt hp, Nat.mod_eq_of_lt hp]
      simp [Byte.bits, hp]
    · rw [List.getElem?_append_right (by omega), hlen, ih, Nat.mod_eq_sub_mod (by omega : 8 ≤ p),
        Nat.div_eq_sub_div (by decide) (by omega : 8 ≤ p), List.getElem?_cons_succ]

/-- Bit p of the payload is bit p mod 8 of byte 260 + p/8 of IBUF (R252, R254). -/
theorem State.getElem?_payload (s : State) {p : Nat} (hp : p / 8 < s.inLen.toNat - hdrLen) :
    s.payload[p]? = some ((s.ibufAt (hdrLen + p / 8)).getLsbD (p % 8)) := by
  rw [State.payload, getElem?_flatMap_bits, State.ibufBytes, List.getElem?_map, List.getElem?_range hp]
  rfl

end Sys2Proof.Machine

namespace Sys2Proof.Claims

open Sys2Proof.Machine

section
variable {s t s' : State} (harchive : PackedArchive s t) (hlen : s'.inLen = t.outLen)
  (hbytes : ∀ j, j < t.outLen.toNat → s'.ibufAt j = t.obufAt j)
include harchive hbytes

/-- The length field is the data's length (R131). -/
theorem PackedArchive.headerLength_eq : s'.headerLength = s.inLen := by
  have houtLen := harchive.outLen
  have hbyte : ∀ k, k < 4 → (s'.ibufAt k).toNat = s.inLen.toNat / 2 ^ (8 * k) % 2 ^ 8 := fun k hk => by
    rw [hbytes k (by omega), harchive.length k hk, BitVec.extractLsb'_toNat, Nat.shiftRight_eq_div_pow]
  have hword := s.inLen.isLt
  refine BitVec.eq_of_toNat_eq ?_
  rw [s'.toNat_headerLength, hbyte 0 (by decide), hbyte 1 (by decide), hbyte 2 (by decide), hbyte 3 (by decide)]
  omega

/-- The frequencies are the data's, when each fits its header byte (R132). -/
theorem PackedArchive.headerFreq_eq (hcount : ¬ truncates s.freq) : s'.headerFreq = s.freq := by
  have houtLen := harchive.outLen
  refine eq_of_atSymbol fun k => BitVec.eq_of_toNat_eq ?_
  have hfits : (atSymbol s.freq k).toNat ≤ 255 := Nat.not_lt.1 fun h => hcount ⟨k, h⟩
  have hk := k.isLt
  rw [s'.toNat_atSymbol_headerFreq, hbytes _ (by omega), harchive.frequency k, BitVec.extractLsb'_toNat,
    Nat.shiftRight_zero, Nat.mod_eq_of_lt (by omega)]

include hlen in
/-- The payload begins with the codes of the data (R230). -/
theorem PackedArchive.codeString_prefix : codeString s <+: s'.payload := by
  have houtLen := harchive.outLen
  refine List.prefix_iff_getElem?.2 fun p hp => ?_
  have hin : p / 8 < s'.inLen.toNat - hdrLen := by rw [hlen, hdrLen]; omega
  rw [s'.getElem?_payload hin, hbytes _ (by rw [hdrLen]; omega), ← harchive.payload p hp, hdrLen]

end

end Sys2Proof.Claims

namespace Sys2Proof.Machine

open Sys2Proof.Claims

theorem State.getElem_input (s : State) {j : Nat} (hj : j < s.inLen.toNat) :
    s.input[j]'(s.length_input ▸ hj) = s.ibufAt j := by
  simp [State.input, State.ibufBytes]

theorem beforePack_freq (s : State) : (beforePack s).freq = countSymbols s.input := rfl

theorem beforePack_cb (s : State) :
    (beforePack s).cb = deriveBook (buildTree (countSymbols s.input) s.node) s.cb := by
  rw [beforePack]

theorem beforeUnpack_node (s : State) : (beforeUnpack s).node = buildTree s.headerFreq s.node := rfl

/-- The codes PACK writes are paths of every tree BUILD makes of the counted frequencies (R198). -/
theorem onPath_beforePack (s : State) (old : Vector Node 511) (k : Byte) :
    OnPath (buildTree (beforePack s).freq old) (k.setWidth 9) (atSymbol (beforePack s).cb k).path := by
  have hbook : (beforePack s).cb = deriveBook (buildTree (beforePack s).freq old) s.cb := by
    rw [beforePack_cb, beforePack_freq, deriveBook, (sameTree_buildTree _ old s.node).walk_eq, deriveBook]
  exact hbook ▸ onPath_deriveBook rfl s.cb k

/-- No symbol occurs more than 255 times, so no count is truncated (R229). -/
theorem not_truncates_beforePack {s : State}
    (hcount : ∀ k : Byte, ((List.range s.inLen.toNat).filter fun i => s.ibufAt i == k).length ≤ 255) :
    ¬ truncates (beforePack s).freq := by
  rintro ⟨k, hk⟩
  rw [beforePack_freq, toNat_atSymbol_countSymbols s.length_input_lt, s.count_input] at hk
  exact Nat.not_lt.2 (hcount k) hk

end Sys2Proof.Machine

namespace Sys2Proof.Proofs

open Sys2Proof.Machine Sys2Proof.Claims

/-- Settles O35: the archive's header gives DECOMPRESS the frequencies COMPRESS counted, so their trees have the same
codes, and the payload's leaves begin with the data. -/
theorem compressThenDecompressIsTheIdentity : Obligations.CompressThenDecompressIsTheIdentity := by
  unfold Obligations.CompressThenDecompressIsTheIdentity
  intro s t s' u hcount hcompress hok hlen hbytes hdecompress hok'
  obtain rfl := Host.Outcome.next.inj ((exec_eq .compress s).symm.trans hcompress)
  obtain rfl := Host.Outcome.next.inj ((exec_eq .decompress s').symm.trans hdecompress)
  have hin := inRange_of_compressRun hok
  obtain ⟨hin', hlen', hfit⟩ := header_of_decompressRun hok'
  rw [commandRun, compressRun_inRange hin] at hok hlen hbytes
  have harchive := packedArchive_of_packRun (s := beforePack s) rfl hin hok
  have hlength : s'.headerLength = s.inLen := harchive.headerLength_eq hbytes
  have hfreq : s'.headerFreq = (beforePack s).freq :=
    harchive.headerFreq_eq hbytes (not_truncates_beforePack hcount)
  have hprefix : s.input <+: (payloadLeaves (beforeUnpack s')).map Prod.fst := by
    refine prefix_map_fst_leaves (fun k => ?_) (harchive.codeString_prefix hlen hbytes) 0
    rw [beforeUnpack_node, hfreq]
    exact onPath_beforePack s s'.node k
  have henough : s'.headerLength.toNat ≤ (payloadLeaves (beforeUnpack s')).length := by
    simpa [hlength, s.length_input] using hprefix.length_le
  obtain ⟨-, -, -, hemits⟩ := decompressRunsItsSteps s'
  obtain ⟨t, hexec, ⟨hsymbols, -⟩, hstate⟩ := hemits hin' hlen' hfit henough
  obtain rfl := Host.Outcome.next.inj (hdecompress.symm.trans hexec)
  refine ⟨by rw [hstate, hlength], fun j hj => ?_⟩
  have hsymbol := List.getElem?_map.trans (hsymbols j (hlength ▸ hj))
  have hinput := List.prefix_iff_getElem?.1 hprefix j (s.length_input ▸ hj)
  rw [← s.getElem_input hj]
  exact Option.some.inj (hsymbol.symm.trans hinput)

end Sys2Proof.Proofs

/-! # When the interrupt rises (R310, R311) -/

namespace Sys2Proof.Machine

open Sys2Proof.Claims

theorem State.irq_eq_true_iff {s : State} : s.irq = true ↔ s.ie = true ∧ s.status.done = true := by
  rw [State.irq, Bool.and_eq_true]

/-- From `s` to `t`, neither IE nor DONE is set. -/
structure SetsNoIrq (s t : State) : Prop where
  ie : t.ie = true → s.ie = true
  done : t.status.done = true → s.status.done = true

theorem SetsNoIrq.irq {s t : State} (h : SetsNoIrq s t) (ht : t.irq = true) : s.irq = true := by
  obtain ⟨hie, hdone⟩ := State.irq_eq_true_iff.1 ht
  exact State.irq_eq_true_iff.2 ⟨h.ie hie, h.done hdone⟩

/-- CTRL apart, no register write sets IE or DONE. -/
theorem writePlace_setsNoIrq (s : State) (v : Word) {p : Place} (h : p ≠ .ctrl) :
    SetsNoIrq s (s.writePlace v p) := by
  have hdropped : SetsNoIrq s { s with status := s.status.markOverrun } := ⟨id, id⟩
  cases p with
  | ctrl => exact absurd rfl h
  | cmd =>
    rw [State.writePlace]
    exact State.locked_induction hdropped ⟨id, nofun⟩
  | status => exact ⟨id, Bool.and_elim_left⟩
  | inLen | expLen | freq =>
    rw [State.writePlace]
    refine State.locked_induction hdropped ?_
    exact ⟨id, id⟩
  | _ => exact ⟨id, id⟩

/-- A soft reset clears IE and DONE, and any other write to CTRL leaves DONE alone (R34, R68, R342). -/
theorem done_and_ie_of_writeCtrl_irq {s : State} {v : Word} (ht : (s.writeCtrl v).irq = true) :
    s.status.done = true ∧ v.getLsbD 0 = true ∧ v.getLsbD 1 = false := by
  obtain ⟨hie, hdone⟩ := State.irq_eq_true_iff.1 ht
  cases hv : v.getLsbD 1 with
  | true =>
    rw [State.writeCtrl, if_pos hv] at hie
    cases hie
  | false =>
    rw [State.writeCtrl, hv] at hie hdone
    exact ⟨hdone, hie, rfl⟩

theorem ibufWrite_setsNoIrq (s : State) (i : Word) (b : Byte) : SetsNoIrq s (s.ibufWrite i b) := by
  refine State.locked_induction ⟨id, id⟩ ?_
  split <;> exact ⟨id, id⟩

/-- The host makes the interrupt rise only by setting IE while DONE = 1. -/
theorem hostAccess_irq_rises {a : HostAccess} {s : State} (hs : s.irq = false) (ht : (hostAccess a s).irq = true) :
    s.status.done = true ∧ ∃ v, a = .regWrite 0x004 v ∧ v.getLsbD 0 = true ∧ v.getLsbD 1 = false := by
  have hsets : ¬ SetsNoIrq s (hostAccess a s) := fun h => Bool.eq_false_iff.1 hs (h.irq ht)
  cases a with
  | regWrite off v =>
    by_cases hctrl : placeOf off = .ctrl
    · obtain rfl := placeOf_eq_ctrl hctrl
      obtain ⟨hdone, hv⟩ := done_and_ie_of_writeCtrl_irq (v := v) ht
      exact ⟨hdone, v, rfl, hv⟩
    · exact absurd { writePlace_setsNoIrq s v hctrl with } hsets
  | ibufWrite i b => exact absurd { ibufWrite_setsNoIrq s i b with } hsets
  | powerReset => exact absurd ⟨nofun, nofun⟩ hsets
  | regRead | ibufRead | obufRead => exact absurd ⟨id, id⟩ hsets

end Sys2Proof.Machine

namespace Sys2Proof.Proofs

open Sys2Proof.Machine Sys2Proof.Claims

/-- Settles O52: the engine keeps IE and, when idle, everything but the turns; the host is `hostAccess_irq_rises`. -/
theorem irqFollowsDone : Obligations.IrqFollowsDone := by
  unfold Obligations.IrqFollowsDone
  refine ⟨fun s => rfl, fun s t hst hs ht => ?_⟩
  by_cases hm : engineMoves s
  · obtain ⟨hie, hdone⟩ := State.irq_eq_true_iff.1 ht
    obtain ⟨-, -, hkept⟩ := engineLeavesTheHostsState s t hst
    obtain ⟨hsame, -⟩ := hkept hm
    cases hb : s.status.busy with
    | true => exact .inl ⟨hsame ▸ hie, rfl, hm, hdone⟩
    | false =>
      rw [step_engineMoves hm, engineTurn_idle (s := turnTaken s) hb] at hst
      obtain rfl := Host.Outcome.next.inj hst
      exact absurd ht (Bool.eq_false_iff.1 hs)
  · obtain ⟨a, rest, ha⟩ : ∃ a rest, s.turns = .host a :: rest := by simpa [engineMoves_iff] using hm
    obtain rfl := Host.Outcome.next.inj ((step_host ha).symm.trans hst)
    obtain ⟨hdone, v, rfl, hset, hnoreset⟩ := hostAccess_irq_rises (s := { s with turns := rest }) hs ht
    exact .inr ⟨hdone, v, rest, ha, hset, hnoreset⟩

end Sys2Proof.Proofs

/-! # Unwritten input bytes (R346)

IBUF's unwritten bytes hold the draws that `ibufEpoch` picks, so the commands are shown not to read it: each makes the
same run with another counter, and the steps of COMPRESS and DECOMPRESS keep IN_LEN and IBUF, so the bytes below IN_LEN
stay written. -/

namespace Sys2Proof.Machine

/-- The run with other draws for IBUF's unwritten bytes. -/
def Run.withIbufEpoch (e : Nat) : Run → Run
  | .finished s => .finished { s with ibufEpoch := e }
  | .raised op k info s => .raised op k info { s with ibufEpoch := e }

theorem Run.conclude_withIbufEpoch (e : Nat) (r : Run) :
    (r.withIbufEpoch e).conclude = { r.conclude with ibufEpoch := e } := by
  cases r <;> rfl

theorem Run.andThen_withIbufEpoch {e : Nat} {r : Run} {f : State → Run}
    (h : ∀ u, r = .finished u → f { u with ibufEpoch := e } = (f u).withIbufEpoch e) :
    (r.withIbufEpoch e).andThen f = (r.andThen f).withIbufEpoch e := by
  cases r with
  | finished u => exact h u rfl
  | raised op k info u => rfl

theorem SameHost.inputWritten {s t : State} (h : SameHost s t) (hw : s.inputWritten) : t.inputWritten := by
  rw [State.inputWritten, h.inLen, h.ibuf]
  exact hw

section
variable {s : State} (hw : s.inputWritten) (e : Nat)
include hw

/-! ## Reads below IN_LEN -/

theorem State.inputWritten.ibufAt {i : Nat} (hi : i < s.inLen.toNat) :
    { s with ibufEpoch := e }.ibufAt i = s.ibufAt i := by
  obtain ⟨b, hb⟩ := Option.isSome_iff_exists.1 (hw i hi)
  simp [State.ibufAt, hb]

theorem State.inputWritten.ibufBytes {a n : Nat} (h : ∀ k < n, a + k < s.inLen.toNat) :
    { s with ibufEpoch := e }.ibufBytes a n = s.ibufBytes a n :=
  List.map_congr_left fun k hk => hw.ibufAt e (h k (List.mem_range.1 hk))

theorem State.inputWritten.input : { s with ibufEpoch := e }.input = s.input :=
  hw.ibufBytes e (n := s.inLen.toNat) fun k hk => by omega

theorem State.inputWritten.payload : { s with ibufEpoch := e }.payload = s.payload :=
  congrArg (List.flatMap Byte.bits) (hw.ibufBytes e (n := s.inLen.toNat - hdrLen) fun k hk => by omega)

theorem State.inputWritten.headerLength (hlen : hdrLen ≤ s.inLen.toNat) :
    { s with ibufEpoch := e }.headerLength = s.headerLength := by
  have hread : ∀ i < hdrLen, { s with ibufEpoch := e }.ibufAt i = s.ibufAt i :=
    fun i hi => hw.ibufAt e (by omega)
  simp only [State.headerLength, hread _ (show 0 < hdrLen by decide), hread _ (show 1 < hdrLen by decide),
    hread _ (show 2 < hdrLen by decide), hread _ (show 3 < hdrLen by decide)]

theorem State.inputWritten.headerFreq (hlen : hdrLen ≤ s.inLen.toNat) :
    { s with ibufEpoch := e }.headerFreq = s.headerFreq := by
  refine congrArg tabulate (funext fun k => ?_)
  rw [hw.ibufAt e (show 4 + k.val < s.inLen.toNat by unfold hdrLen at hlen; omega)]

/-! ## The commands -/

theorem countRun_withIbufEpoch : countRun { s with ibufEpoch := e } = (countRun s).withIbufEpoch e := by
  simp only [countRun, hw.input e]
  split <;> rfl

theorem parseRun_withIbufEpoch : parseRun { s with ibufEpoch := e } = (parseRun s).withIbufEpoch e := by
  simp only [parseRun]
  split
  · rfl
  · split
    · rfl
    · next hlen =>
      rw [hw.headerLength e (Nat.not_lt.1 hlen), hw.headerFreq e (Nat.not_lt.1 hlen)]
      rfl

theorem packPayload_withIbufEpoch : packPayload { s with ibufEpoch := e } = (packPayload s).withIbufEpoch e := by
  simp only [packPayload, hw.input e]
  cases packBits s.obufSize.toNat (codeBits s.cb s.input) ⟨0, 0, s.obuf⟩ <;> rfl

theorem packRun_withIbufEpoch : packRun { s with ibufEpoch := e } = (packRun s).withIbufEpoch e := by
  simp only [packRun]
  split
  · rfl
  · split
    · rfl
    · exact packPayload_withIbufEpoch ((packHeader_sameHost s).inputWritten hw) e

theorem unpackPayload_withIbufEpoch :
    unpackPayload { s with ibufEpoch := e } = (unpackPayload s).withIbufEpoch e := by
  simp only [unpackPayload, hw.payload e]
  generalize unpackBits s.node s.expLen.toNat s.payload s.obuf = scanned
  split <;> rfl

theorem unpackRun_withIbufEpoch : unpackRun { s with ibufEpoch := e } = (unpackRun s).withIbufEpoch e := by
  simp only [unpackRun]
  split
  · rfl
  · split
    · rfl
    · split
      · rfl
      · split
        · rfl
        · exact unpackPayload_withIbufEpoch hw e

end

theorem buildRun_withIbufEpoch (s : State) (e : Nat) :
    buildRun { s with ibufEpoch := e } = (buildRun s).withIbufEpoch e := rfl

theorem deriveRun_withIbufEpoch (s : State) (e : Nat) :
    deriveRun { s with ibufEpoch := e } = (deriveRun s).withIbufEpoch e := by
  simp only [deriveRun]
  split <;> rfl

section
variable {s : State} (hw : s.inputWritten) (e : Nat)
include hw

/-- A sequence of steps whose last one reads the input, which the steps before it left written (R277). -/
theorem andThen_withIbufEpoch_of_inputWritten {r : Run} {f : State → Run} (hr : SameHost s r.state)
    (hf : ∀ {u : State}, u.inputWritten → f { u with ibufEpoch := e } = (f u).withIbufEpoch e) :
    (r.withIbufEpoch e).andThen f = (r.andThen f).withIbufEpoch e :=
  Run.andThen_withIbufEpoch fun u hu => by
    rw [hu] at hr
    exact hf (hr.inputWritten hw)

theorem compressRun_withIbufEpoch : compressRun { s with ibufEpoch := e } = (compressRun s).withIbufEpoch e := by
  have hhost := andThen_sameHost (andThen_sameHost (countRun_sameHost s) buildRun_sameHost) deriveRun_sameHost
  rw [compressRun, countRun_withIbufEpoch hw, Run.andThen_withIbufEpoch fun u _ => buildRun_withIbufEpoch u e,
    Run.andThen_withIbufEpoch fun u _ => deriveRun_withIbufEpoch u e]
  exact andThen_withIbufEpoch_of_inputWritten hw e hhost fun hu => packRun_withIbufEpoch hu e

theorem decompressRun_withIbufEpoch :
    decompressRun { s with ibufEpoch := e } = (decompressRun s).withIbufEpoch e := by
  have hhost := andThen_sameHost (parseRun_sameHost s) buildRun_sameHost
  rw [decompressRun, parseRun_withIbufEpoch hw, Run.andThen_withIbufEpoch fun u _ => buildRun_withIbufEpoch u e]
  exact andThen_withIbufEpoch_of_inputWritten hw e hhost fun hu => unpackRun_withIbufEpoch hu e

theorem commandRun_withIbufEpoch (i : Instr) :
    commandRun i { s with ibufEpoch := e } = (commandRun i s).withIbufEpoch e := by
  cases i with
  | nop => rfl
  | count => exact countRun_withIbufEpoch hw e
  | build => exact buildRun_withIbufEpoch s e
  | derive => exact deriveRun_withIbufEpoch s e
  | pack => exact packRun_withIbufEpoch hw e
  | parse => exact parseRun_withIbufEpoch hw e
  | unpack => exact unpackRun_withIbufEpoch hw e
  | compress => exact compressRun_withIbufEpoch hw e
  | decompress => exact decompressRun_withIbufEpoch hw e

end

end Sys2Proof.Machine

namespace Sys2Proof.Proofs

open Sys2Proof.Machine

/-- Settles O54: every command makes the same run with another counter, and its end carries the counter along. -/
theorem writtenInputDecidesTheOutcome : Obligations.WrittenInputDecidesTheOutcome := by
  unfold Obligations.WrittenInputDecidesTheOutcome
  intro i s t e hw h
  obtain rfl := Host.Outcome.next.inj ((exec_eq i s).symm.trans h)
  rw [exec_eq, commandRun_withIbufEpoch hw e i, Run.conclude_withIbufEpoch]

end Sys2Proof.Proofs
